-- ==== Sys2Proof/Word.lean ====
section
/-! DEFINITION. The plain types of RCA-CORE: bits and bit sequences (00_scope.md R5), bytes, the 128-bit command word
(30_encoding.md R70) and the selector of a BitVector register (10_state.md R21). -/

namespace Sys2Proof

/-- One element of a BitVector: 0 is `false`, 1 is `true` (10_state.md R22 lets a model type the elements as bits). -/
abbrev Bit := Bool

/-- A sequence of bits, head (index 0) first (00_scope.md R5, 40_bitvector.md R100). -/
abbrev BitSeq := List Bit

/-- One byte of BUF (20_memory.md R50). -/
abbrev Byte := BitVec 8

/-- A command word `cmd[127:0]` (30_encoding.md R70). -/
abbrev CmdWord := BitVec 128

/-- A selector of one of the 16 BitVector registers `b[0]` to `b[15]` (10_state.md R21). -/
abbrev BReg := Fin 16

end Sys2Proof
end

