-- ==== Sys2Proof/Config.lean ====
section
/-! DEFINITION. What is fixed for one RCA-CORE: the sizes the source fixes (00_scope.md R3), the two OPEN parameters
(R4) as plain data, and the free value of a BUF byte that nothing has written (93_implementation_defined.md U9). -/

namespace Sys2Proof

/-- The warm-up threshold: 1152 = 4 x 288 update cycles (00_scope.md R3, 43_trivium_engine.md R202). -/
def warmupThreshold : Nat := 1152

/-- Length of the stream key and of the initialization vector, in bits (00_scope.md R3). -/
def streamKeyBits : Nat := 80

/-- The two OPEN parameters of 00_scope.md R4. They are arguments of the model, not state: a `State` carries them because
the step has no other argument, and no step changes them (notes/assumptions/3.md). -/
structure Params where
  /-- `BV_CAP`: the largest length, in bits, of a BitVector register and of the keystream buffer. -/
  bvCap : Nat
  /-- `BUF_BYTES`: the size in bytes of the buffer memory BUF. -/
  bufBytes : Nat
deriving DecidableEq, Repr

/-- The ranges of 00_scope.md R4: 80 <= BV_CAP <= 2^32 - 1 and 1 <= BUF_BYTES <= 2^32. -/
abbrev Params.wf (p : Params) : Prop :=
  80 ≤ p.bvCap ∧ p.bvCap ≤ 2 ^ 32 - 1 ∧ 1 ≤ p.bufBytes ∧ p.bufBytes ≤ 2 ^ 32

/-- The parameters the state after reset has: the values with which 95_test_vectors.md Part 3 runs its programs.
DESIGN CHOICE, unsafe: the spec leaves both open (notes/assumptions/3.md). -/
def Params.default : Params := { bvCap := 4096, bufBytes := 4096 }

/-- FREE VALUE: what BV.CONSTRUCT finds at the BUF address `addr` when neither the host nor a command has written that
byte since the reset numbered `resets` (93_implementation_defined.md U9, `any value`). It has no body, so nothing can be
proved of it. DESIGN CHOICE (notes/assumptions/4.md). -/
opaque Config.unwrittenByte (resets addr : Nat) : Byte

end Sys2Proof
end

