-- ==== Sys2Proof/Syntax.lean ====
section
/-! DEFINITION. The 23 commands of RCA-CORE command set v1 as data: one constructor per row of spec/opcode_table.json
(30_encoding.md R73), with the operands of each in the order of R78, the mnemonics and assembler spelling (R78) and the
pseudo-commands (R79). -/

namespace Sys2Proof

/-- A command. Register operands are selectors; an index, a count or a BUF address is a natural number (its bound is
checked in `Instr.wellFormed`), because every rule uses them as exact unsigned integers (40_bitvector.md R119); a DES key
or block is a 64-bit vector. -/
inductive Instr where
  /-- BV.CONSTRUCT bD, n, @addr (R102). -/
  | bvConstruct (rd : BReg) (n : Nat) (addr : Nat)
  /-- BV.GET bA, i (R103). -/
  | bvGet (ra : BReg) (i : Nat)
  /-- BV.SET bD, i, bit (R104). -/
  | bvSet (rd : BReg) (i : Nat) (bit : Bit)
  /-- BV.INSERT bD, i, bit (R105). -/
  | bvInsert (rd : BReg) (i : Nat) (bit : Bit)
  /-- BV.APPEND bD, bit (R106). -/
  | bvAppend (rd : BReg) (bit : Bit)
  /-- BV.SHL bD, n (R107). -/
  | bvShl (rd : BReg) (n : Nat)
  /-- BV.SHR bD, n (R108). -/
  | bvShr (rd : BReg) (n : Nat)
  /-- BV.REV bD, bA (R110). -/
  | bvRev (rd ra : BReg)
  /-- BV.REVI bD (R111). -/
  | bvRevi (rd : BReg)
  /-- BV.XOR bD, bA, bB (R112). -/
  | bvXor (rd ra rb : BReg)
  /-- BV.PACK bA, @addr (R114). -/
  | bvPack (ra : BReg) (addr : Nat)
  /-- BV.STORE bA, @addr (R115). -/
  | bvStore (ra : BReg) (addr : Nat)
  /-- BV.LEN bA (R116). -/
  | bvLen (ra : BReg)
  /-- DES.LOADKEY key (R167). -/
  | desLoadKey (key : BitVec 64)
  /-- DES.SCHED (R168). -/
  | desSched
  /-- DES.ENC block (R169). -/
  | desEnc (block : BitVec 64)
  /-- DES.DEC block (R170). -/
  | desDec (block : BitVec 64)
  /-- TRV.INIT bA, bB: key register, then IV register (R193). -/
  | trvInit (ra rb : BReg)
  /-- TRV.WARMUP (R194). -/
  | trvWarmup
  /-- TRV.GEN n (R195). -/
  | trvGen (n : Nat)
  /-- TRV.ENC bD, bA (R196). -/
  | trvEnc (rd ra : BReg)
  /-- TRV.DEC bD, bA (R197). -/
  | trvDec (rd ra : BReg)
  /-- TRV.KS bD (R198). -/
  | trvKs (rd : BReg)
deriving DecidableEq, Repr

/-- The mnemonic of a command, as spec/opcode_table.json and R73 spell it. -/
def Instr.mnemonic : Instr → String
  | .bvConstruct .. => "BV.CONSTRUCT"
  | .bvGet .. => "BV.GET"
  | .bvSet .. => "BV.SET"
  | .bvInsert .. => "BV.INSERT"
  | .bvAppend .. => "BV.APPEND"
  | .bvShl .. => "BV.SHL"
  | .bvShr .. => "BV.SHR"
  | .bvRev .. => "BV.REV"
  | .bvRevi .. => "BV.REVI"
  | .bvXor .. => "BV.XOR"
  | .bvPack .. => "BV.PACK"
  | .bvStore .. => "BV.STORE"
  | .bvLen .. => "BV.LEN"
  | .desLoadKey .. => "DES.LOADKEY"
  | .desSched => "DES.SCHED"
  | .desEnc .. => "DES.ENC"
  | .desDec .. => "DES.DEC"
  | .trvInit .. => "TRV.INIT"
  | .trvWarmup => "TRV.WARMUP"
  | .trvGen .. => "TRV.GEN"
  | .trvEnc .. => "TRV.ENC"
  | .trvDec .. => "TRV.DEC"
  | .trvKs .. => "TRV.KS"

/-- A register operand in the assembler spelling of R78: `b0` to `b15`. -/
def BReg.asm (r : BReg) : String := "b" ++ toString r.val

/-- A bit operand in the assembler spelling of R78. -/
def Bit.asm (b : Bit) : String := if b then "1" else "0"

/-- The operands of a command in the order of R78 (rd, ra, rb, then idx, then bit, then data / addr), numbers in decimal. -/
def Instr.operands : Instr → List String
  | .bvConstruct rd n addr => [BReg.asm rd, toString n, "@" ++ toString addr]
  | .bvGet ra i => [BReg.asm ra, toString i]
  | .bvSet rd i bit => [BReg.asm rd, toString i, Bit.asm bit]
  | .bvInsert rd i bit => [BReg.asm rd, toString i, Bit.asm bit]
  | .bvAppend rd bit => [BReg.asm rd, Bit.asm bit]
  | .bvShl rd n => [BReg.asm rd, toString n]
  | .bvShr rd n => [BReg.asm rd, toString n]
  | .bvRev rd ra => [BReg.asm rd, BReg.asm ra]
  | .bvRevi rd => [BReg.asm rd]
  | .bvXor rd ra rb => [BReg.asm rd, BReg.asm ra, BReg.asm rb]
  | .bvPack ra addr => [BReg.asm ra, "@" ++ toString addr]
  | .bvStore ra addr => [BReg.asm ra, "@" ++ toString addr]
  | .bvLen ra => [BReg.asm ra]
  | .desLoadKey key => [toString key.toNat]
  | .desSched => []
  | .desEnc block => [toString block.toNat]
  | .desDec block => [toString block.toNat]
  | .trvInit ra rb => [BReg.asm ra, BReg.asm rb]
  | .trvWarmup => []
  | .trvGen n => [toString n]
  | .trvEnc rd ra => [BReg.asm rd, BReg.asm ra]
  | .trvDec rd ra => [BReg.asm rd, BReg.asm ra]
  | .trvKs rd => [BReg.asm rd]

/-- The assembler spelling of a command (R78): the mnemonic, then the operands separated by commas. -/
def Instr.asm (i : Instr) : String :=
  match i.operands with
  | [] => i.mnemonic
  | ops => i.mnemonic ++ " " ++ String.intercalate ", " ops

/-- The pseudo-command `BV.PREPEND bD, bit`: `BV.INSERT bD, 0, bit` (R79). -/
def Instr.bvPrepend (rd : BReg) (bit : Bit) : Instr := .bvInsert rd 0 bit

/-- The pseudo-command `BV.CLEAR bD`: `BV.CONSTRUCT bD, 0, @0` (R79). -/
def Instr.bvClear (rd : BReg) : Instr := .bvConstruct rd 0 0

/-- The pseudo-command `TRV.UPDATE`: `TRV.GEN 1` (R79). -/
def Instr.trvUpdate : Instr := .trvGen 1

end Sys2Proof
end

