-- ==== Sys2Proof/WellFormed.lean ====
section
/-! DEFINITION. When a command can be encoded: its index or count fits the 32-bit `idx` field and its BUF address the
32-bit address of the `data` field (30_encoding.md R70 to R72). Registers, the bit and the 64-bit data fit by their types. -/

namespace Sys2Proof

/-- An index or count `i` fits the `idx` field, `cmd[95:64]` (R70). -/
def fitsIdx (i : Nat) : Bool := i < 2 ^ 32

/-- A BUF address fits `data[31:0]` (R72). -/
def fitsAddr (a : Nat) : Bool := a < 2 ^ 32

/-- Every operand of the command fits its field. -/
def Instr.wellFormed : Instr → Bool
  | .bvConstruct _ n addr => fitsIdx n && fitsAddr addr
  | .bvGet _ i => fitsIdx i
  | .bvSet _ i _ => fitsIdx i
  | .bvInsert _ i _ => fitsIdx i
  | .bvAppend _ _ => true
  | .bvShl _ n => fitsIdx n
  | .bvShr _ n => fitsIdx n
  | .bvRev _ _ => true
  | .bvRevi _ => true
  | .bvXor _ _ _ => true
  | .bvPack _ addr => fitsAddr addr
  | .bvStore _ addr => fitsAddr addr
  | .bvLen _ => true
  | .desLoadKey _ => true
  | .desSched => true
  | .desEnc _ => true
  | .desDec _ => true
  | .trvInit _ _ => true
  | .trvWarmup => true
  | .trvGen n => fitsIdx n
  | .trvEnc _ _ => true
  | .trvDec _ _ => true
  | .trvKs _ => true

end Sys2Proof
end

