-- ==== Sys2Proof/Decode.lean ====
section
/-! DEFINITION. The encoding of commands (30_encoding.md): the one 128-bit format (R70), which fields each command uses
(R73), the decoder, total on every word and rejecting by name (R75, R76), the encoder, and the rows of
spec/opcode_table.json as data. -/

namespace Sys2Proof

/-- The fields of a command word, in the order of R70 from the most significant end. -/
structure Fields where
  /-- `cmd[127:120]`, the opcode. -/
  op : BitVec 8
  /-- `cmd[119:116]`, the destination register. -/
  rd : BitVec 4 := 0
  /-- `cmd[115:112]`, the first source register. -/
  ra : BitVec 4 := 0
  /-- `cmd[111:108]`, the second source register. -/
  rb : BitVec 4 := 0
  /-- `cmd[107:97]`, always 0. -/
  zero : BitVec 11 := 0
  /-- `cmd[96]`, the bit operand. -/
  bit : BitVec 1 := 0
  /-- `cmd[95:64]`, an index or a count. -/
  idx : BitVec 32 := 0
  /-- `cmd[63:0]`, a DES key or block, or a BUF address in its low 32 bits. -/
  data : BitVec 64 := 0
deriving DecidableEq, Repr

/-- The fields of a command word (R70). -/
def fieldsOf (w : CmdWord) : Fields where
  op := w.extractLsb' 120 8
  rd := w.extractLsb' 116 4
  ra := w.extractLsb' 112 4
  rb := w.extractLsb' 108 4
  zero := w.extractLsb' 97 11
  bit := w.extractLsb' 96 1
  idx := w.extractLsb' 64 32
  data := w.extractLsb' 0 64

/-- The command word with the given fields (R70; the integer concatenation of 00_scope.md R9, high part first). -/
def wordOf (f : Fields) : CmdWord :=
  f.op ++ f.rd ++ f.ra ++ f.rb ++ f.zero ++ f.bit ++ f.idx ++ f.data

/-- How a command uses the `data` field (R72, R73). -/
inductive DataUse where
  /-- not used: all 64 bits must be 0 -/
  | unused
  /-- a BUF address in bits 31:0; bits 63:32 must be 0 -/
  | addr
  /-- a DES key or block: all 64 bits -/
  | whole
deriving DecidableEq, Repr

/-- Which fields a command uses: the columns of R73. The `zero` field is used by none. -/
structure FieldUse where
  rd : Bool := false
  ra : Bool := false
  rb : Bool := false
  bit : Bool := false
  idx : Bool := false
  data : DataUse := .unused
deriving DecidableEq, Repr

/-- Every field that the command does not use is 0 (R75). -/
def Fields.unusedZero (f : Fields) (u : FieldUse) : Bool :=
  (u.rd || f.rd == 0) && (u.ra || f.ra == 0) && (u.rb || f.rb == 0) && f.zero == 0 && (u.bit || f.bit == 0)
    && (u.idx || f.idx == 0)
    && (match u.data with
        | .unused => f.data == 0
        | .addr => f.data.extractLsb' 32 32 == 0
        | .whole => true)

/-- Why a word is no command; each is the fault IllegalCommand of the block (R75, R76). -/
inductive DecodeError where
  /-- `op` is one of the 233 reserved values (R76). -/
  | reservedOpcode
  /-- a field that the command does not use, the `zero` field or (for an address) `data[63:32]` is not 0 (R75) -/
  | unusedFieldNotZero
deriving DecidableEq, Repr

/-- The selector in a 4-bit register field (R71). -/
def regOf (f : BitVec 4) : BReg := f.toFin

/-- The 4-bit register field of a selector. -/
def regField (r : BReg) : BitVec 4 := BitVec.ofFin r

/-- The bit in the 1-bit `bit` field (R71). -/
def bitOf (f : BitVec 1) : Bit := f == 1

/-- The BUF address `data[31:0]` (R72). -/
def addrOf (d : BitVec 64) : Nat := (d.extractLsb' 0 32).toNat

/-- Accept a command if the fields it does not use are 0 (R75). -/
def Fields.checked (f : Fields) (u : FieldUse) (i : Instr) : Except DecodeError Instr :=
  if f.unusedZero u then .ok i else .error .unusedFieldNotZero

/-- The command that the fields of a word stand for: R73's table, selected by `op` alone. -/
def decodeFields (f : Fields) : Except DecodeError Instr :=
  match f.op.toNat with
  | 0x10 => f.checked { rd := true, idx := true, data := .addr } (.bvConstruct (regOf f.rd) f.idx.toNat (addrOf f.data))
  | 0x11 => f.checked { ra := true, idx := true } (.bvGet (regOf f.ra) f.idx.toNat)
  | 0x12 => f.checked { rd := true, bit := true, idx := true } (.bvSet (regOf f.rd) f.idx.toNat (bitOf f.bit))
  | 0x13 => f.checked { rd := true, bit := true, idx := true } (.bvInsert (regOf f.rd) f.idx.toNat (bitOf f.bit))
  | 0x14 => f.checked { rd := true, bit := true } (.bvAppend (regOf f.rd) (bitOf f.bit))
  | 0x15 => f.checked { rd := true, idx := true } (.bvShl (regOf f.rd) f.idx.toNat)
  | 0x16 => f.checked { rd := true, idx := true } (.bvShr (regOf f.rd) f.idx.toNat)
  | 0x17 => f.checked { rd := true, ra := true } (.bvRev (regOf f.rd) (regOf f.ra))
  | 0x18 => f.checked { rd := true } (.bvRevi (regOf f.rd))
  | 0x19 => f.checked { rd := true, ra := true, rb := true } (.bvXor (regOf f.rd) (regOf f.ra) (regOf f.rb))
  | 0x1A => f.checked { ra := true, data := .addr } (.bvPack (regOf f.ra) (addrOf f.data))
  | 0x1B => f.checked { ra := true, data := .addr } (.bvStore (regOf f.ra) (addrOf f.data))
  | 0x1C => f.checked { ra := true } (.bvLen (regOf f.ra))
  | 0x20 => f.checked { data := .whole } (.desLoadKey f.data)
  | 0x21 => f.checked {} .desSched
  | 0x22 => f.checked { data := .whole } (.desEnc f.data)
  | 0x23 => f.checked { data := .whole } (.desDec f.data)
  | 0x30 => f.checked { ra := true, rb := true } (.trvInit (regOf f.ra) (regOf f.rb))
  | 0x31 => f.checked {} .trvWarmup
  | 0x32 => f.checked { idx := true } (.trvGen f.idx.toNat)
  | 0x33 => f.checked { rd := true, ra := true } (.trvEnc (regOf f.rd) (regOf f.ra))
  | 0x34 => f.checked { rd := true, ra := true } (.trvDec (regOf f.rd) (regOf f.ra))
  | 0x35 => f.checked { rd := true } (.trvKs (regOf f.rd))
  | _ => .error .reservedOpcode

/-- The decoder: total on every 128-bit word, and either one command or a named reason (R76). -/
def decode (w : CmdWord) : Except DecodeError Instr := decodeFields (fieldsOf w)

/-- The opcode of a command (R73). -/
def Instr.opcode : Instr → BitVec 8
  | .bvConstruct .. => 0x10
  | .bvGet .. => 0x11
  | .bvSet .. => 0x12
  | .bvInsert .. => 0x13
  | .bvAppend .. => 0x14
  | .bvShl .. => 0x15
  | .bvShr .. => 0x16
  | .bvRev .. => 0x17
  | .bvRevi .. => 0x18
  | .bvXor .. => 0x19
  | .bvPack .. => 0x1A
  | .bvStore .. => 0x1B
  | .bvLen .. => 0x1C
  | .desLoadKey .. => 0x20
  | .desSched => 0x21
  | .desEnc .. => 0x22
  | .desDec .. => 0x23
  | .trvInit .. => 0x30
  | .trvWarmup => 0x31
  | .trvGen .. => 0x32
  | .trvEnc .. => 0x33
  | .trvDec .. => 0x34
  | .trvKs .. => 0x35

/-- The 1-bit `bit` field of a bit operand. -/
def bitField (b : Bit) : BitVec 1 := BitVec.ofBool b

/-- The fields of a command: its `op`, its operands in their fields (R73), 0 in every other field. -/
def encodeFields (i : Instr) : Fields :=
  match i with
  | .bvConstruct rd n addr => { op := i.opcode, rd := regField rd, idx := .ofNat 32 n, data := .ofNat 64 addr }
  | .bvGet ra n => { op := i.opcode, ra := regField ra, idx := .ofNat 32 n }
  | .bvSet rd n bit => { op := i.opcode, rd := regField rd, bit := bitField bit, idx := .ofNat 32 n }
  | .bvInsert rd n bit => { op := i.opcode, rd := regField rd, bit := bitField bit, idx := .ofNat 32 n }
  | .bvAppend rd bit => { op := i.opcode, rd := regField rd, bit := bitField bit }
  | .bvShl rd n => { op := i.opcode, rd := regField rd, idx := .ofNat 32 n }
  | .bvShr rd n => { op := i.opcode, rd := regField rd, idx := .ofNat 32 n }
  | .bvRev rd ra => { op := i.opcode, rd := regField rd, ra := regField ra }
  | .bvRevi rd => { op := i.opcode, rd := regField rd }
  | .bvXor rd ra rb => { op := i.opcode, rd := regField rd, ra := regField ra, rb := regField rb }
  | .bvPack ra addr => { op := i.opcode, ra := regField ra, data := .ofNat 64 addr }
  | .bvStore ra addr => { op := i.opcode, ra := regField ra, data := .ofNat 64 addr }
  | .bvLen ra => { op := i.opcode, ra := regField ra }
  | .desLoadKey key => { op := i.opcode, data := key }
  | .desSched => { op := i.opcode }
  | .desEnc block => { op := i.opcode, data := block }
  | .desDec block => { op := i.opcode, data := block }
  | .trvInit ra rb => { op := i.opcode, ra := regField ra, rb := regField rb }
  | .trvWarmup => { op := i.opcode }
  | .trvGen n => { op := i.opcode, idx := .ofNat 32 n }
  | .trvEnc rd ra => { op := i.opcode, rd := regField rd, ra := regField ra }
  | .trvDec rd ra => { op := i.opcode, rd := regField rd, ra := regField ra }
  | .trvKs rd => { op := i.opcode, rd := regField rd }

/-- The encoder: the command word of a command (R70). -/
def encode (i : Instr) : CmdWord := wordOf (encodeFields i)

/-- The command the decoder reads from a word numbered as spec/opcode_table.json numbers it: that numbering is `cmd[127:0]`
itself (R70), so the bits above `nbits` are cleared and the rest is the word. -/
def decodeTableWord (nbits w : Nat) : Option Instr :=
  match decode (BitVec.ofNat 128 (w % 2 ^ nbits)) with
  | .ok i => some i
  | .error _ => none

/-- A row of spec/opcode_table.json: `cmd and mask = match` holds for exactly the well-formed words of the command (R73). -/
structure OpcodeRow where
  mnemonic : String
  mask : CmdWord
  pattern : CmdWord
deriving DecidableEq, Repr

/-- The rows of spec/opcode_table.json for the BVU. -/
def opcodeRowsBvu : List OpcodeRow :=
  [ ⟨"BV.CONSTRUCT", 0xFF0FFFFF00000000FFFFFFFF00000000, 0x10000000000000000000000000000000⟩,
    ⟨"BV.GET", 0xFFF0FFFF00000000FFFFFFFFFFFFFFFF, 0x11000000000000000000000000000000⟩,
    ⟨"BV.SET", 0xFF0FFFFE00000000FFFFFFFFFFFFFFFF, 0x12000000000000000000000000000000⟩,
    ⟨"BV.INSERT", 0xFF0FFFFE00000000FFFFFFFFFFFFFFFF, 0x13000000000000000000000000000000⟩,
    ⟨"BV.APPEND", 0xFF0FFFFEFFFFFFFFFFFFFFFFFFFFFFFF, 0x14000000000000000000000000000000⟩,
    ⟨"BV.SHL", 0xFF0FFFFF00000000FFFFFFFFFFFFFFFF, 0x15000000000000000000000000000000⟩,
    ⟨"BV.SHR", 0xFF0FFFFF00000000FFFFFFFFFFFFFFFF, 0x16000000000000000000000000000000⟩,
    ⟨"BV.REV", 0xFF00FFFFFFFFFFFFFFFFFFFFFFFFFFFF, 0x17000000000000000000000000000000⟩,
    ⟨"BV.REVI", 0xFF0FFFFFFFFFFFFFFFFFFFFFFFFFFFFF, 0x18000000000000000000000000000000⟩,
    ⟨"BV.XOR", 0xFF000FFFFFFFFFFFFFFFFFFFFFFFFFFF, 0x19000000000000000000000000000000⟩,
    ⟨"BV.PACK", 0xFFF0FFFFFFFFFFFFFFFFFFFF00000000, 0x1A000000000000000000000000000000⟩,
    ⟨"BV.STORE", 0xFFF0FFFFFFFFFFFFFFFFFFFF00000000, 0x1B000000000000000000000000000000⟩,
    ⟨"BV.LEN", 0xFFF0FFFFFFFFFFFFFFFFFFFFFFFFFFFF, 0x1C000000000000000000000000000000⟩ ]

/-- The rows of spec/opcode_table.json for the two engines. -/
def opcodeRowsEngines : List OpcodeRow :=
  [ ⟨"DES.LOADKEY", 0xFFFFFFFFFFFFFFFF0000000000000000, 0x20000000000000000000000000000000⟩,
    ⟨"DES.SCHED", 0xFFFFFFFFFFFFFFFFFFFFFFFFFFFFFFFF, 0x21000000000000000000000000000000⟩,
    ⟨"DES.ENC", 0xFFFFFFFFFFFFFFFF0000000000000000, 0x22000000000000000000000000000000⟩,
    ⟨"DES.DEC", 0xFFFFFFFFFFFFFFFF0000000000000000, 0x23000000000000000000000000000000⟩,
    ⟨"TRV.INIT", 0xFFF00FFFFFFFFFFFFFFFFFFFFFFFFFFF, 0x30000000000000000000000000000000⟩,
    ⟨"TRV.WARMUP", 0xFFFFFFFFFFFFFFFFFFFFFFFFFFFFFFFF, 0x31000000000000000000000000000000⟩,
    ⟨"TRV.GEN", 0xFFFFFFFF00000000FFFFFFFFFFFFFFFF, 0x32000000000000000000000000000000⟩,
    ⟨"TRV.ENC", 0xFF00FFFFFFFFFFFFFFFFFFFFFFFFFFFF, 0x33000000000000000000000000000000⟩,
    ⟨"TRV.DEC", 0xFF00FFFFFFFFFFFFFFFFFFFFFFFFFFFF, 0x34000000000000000000000000000000⟩,
    ⟨"TRV.KS", 0xFF0FFFFFFFFFFFFFFFFFFFFFFFFFFFFF, 0x35000000000000000000000000000000⟩ ]

/-- All rows of spec/opcode_table.json, in its order. -/
def opcodeTable : List OpcodeRow := opcodeRowsBvu ++ opcodeRowsEngines

/-- A word fits a row of the table. -/
def OpcodeRow.fits (r : OpcodeRow) (w : CmdWord) : Bool := w &&& r.mask == r.pattern

end Sys2Proof
end

