-- ==== Sys2Proof/Machine/State.lean ====
section
/-! DEFINITION. The state of RCA-CORE: every entry of 10_state.md R20, what the host does next, the two reasons a step of
the model can stop, and the state after reset (R33). -/

namespace Sys2Proof.Machine

/-- What the host does between two commands (10_state.md R23, R32; 20_memory.md R57; 70_reset_and_hazards.md R270). Reading
the report registers or BUF changes nothing and is no action, and there is no debug, trace, single-step or counter action
(60_exceptions.md R256). -/
inductive HostAction where
  /-- Issue a 128-bit command word on the command port (30_encoding.md R70). -/
  | command (w : CmdWord)
  /-- Write one byte of BUF (R32). -/
  | writeBuf (addr : Nat) (byte : Byte)
  /-- Apply the one reset (R270). -/
  | reset
deriving DecidableEq, Repr

/-- The buffer memory BUF as the bytes that have been written since reset, addresses strictly rising (`Memory.wf`). An
address that is not listed has no value (10_state.md R33, 20_memory.md R54), so no entry can equal what an unlisted
address reads as. -/
abbrev Memory := List Host.Cell

/-- The architectural state (10_state.md R20), then three fields of the model's own: `cfg`, `port`, `resets`. -/
structure State where
  /-- `b[0]` .. `b[15]`, the BitVector register file (R21). -/
  b : Vector BitSeq 16
  /-- `des_key`, the 64-bit key (R28). -/
  desKey : BitVec 64
  /-- `K[0]` .. `K[15]`, the subkey cache, 48 bits in a 64-bit register each (R28). -/
  K : Vector (BitVec 64) 16
  /-- `des_scheduled`: the subkeys are computed (R24). -/
  desScheduled : Bool
  /-- `des_valid`: a key has been loaded since reset (R24). -/
  desValid : Bool
  /-- `s[0]` .. `s[287]`, the stream state: bit i of the vector is s[i], so segment A is bits 0 to 92, B 93 to 176, C 177 to
  287 (R29). -/
  sreg : BitVec 288
  /-- `count`, the update transitions since the last successful TRV.INIT; a natural number, as R29 allows. -/
  count : Nat
  /-- `ks`, the keystream buffer, newest bit first (R29; 43_trivium_engine.md R199). -/
  ks : BitSeq
  /-- `trv_valid`: a TRV.INIT has succeeded since reset (R24). -/
  trvValid : Bool
  /-- `STATUS`, the outcome of the most recent completed command (R25). -/
  STATUS : BitVec 8
  /-- `INFO`, that outcome's information word (R25). -/
  INFO : BitVec 32
  /-- `RES`, the most recent scalar result (R26). -/
  RES : BitVec 64
  /-- `FAULT`, 0 while the block runs, else the code of the first fault (R27). -/
  FAULT : BitVec 8
  /-- `FINFO`, that fault's information word (R27). -/
  FINFO : BitVec 32
  /-- `BUF[0]` .. `BUF[BUF_BYTES-1]`, the buffer memory (R30). -/
  BUF : Memory
  /-- MODEL'S OWN: the OPEN parameters of 00_scope.md R4; no step changes them (notes/assumptions/3.md). -/
  cfg : Params
  /-- MODEL'S OWN: what the host does next, first action first; the input of the step (R20, R23, notes/assumptions/1.md). -/
  port : List HostAction
  /-- MODEL'S OWN: how many resets the host has applied; it numbers the free values of unwritten BUF bytes
  (notes/assumptions/4.md). -/
  resets : Nat
deriving DecidableEq, Repr

/-- Why the model's machine stops. No COMMAND ever stops it: the block's own faults are next states with FAULT written
(60_exceptions.md R244). -/
inductive Fault where
  /-- Raised by a HOST write to an address at or above BUF_BYTES, which does not exist (20_memory.md R50). Safe: the model
  stops where the spec says nothing. -/
  | hostWriteOutsideBuf (addr : Nat)
deriving DecidableEq, Repr

/-- Why a command has no meaning in the model. -/
inductive Refusal where
  /-- Raised by `exec` for a command not modelled yet, named by its mnemonic; no arm of `exec` uses it. Safe. -/
  | notModelled (mnemonic : String)
deriving DecidableEq, Repr

/-- What a command or a step answers. -/
abbrev Result := Host.Outcome State Fault Refusal

/-- The state a reset leaves (10_state.md R33), for given parameters, number of resets and remaining host actions: every
register, flag and engine state cleared, and no byte of BUF has a value. -/
def State.resetWith (cfg : Params) (resets : Nat) (port : List HostAction) : State where
  b := Vector.replicate 16 []
  desKey := 0
  K := Vector.replicate 16 0
  desScheduled := false
  desValid := false
  sreg := 0
  count := 0
  ks := []
  trvValid := false
  STATUS := 0
  INFO := 0
  RES := 0
  FAULT := 0
  FINFO := 0
  BUF := []
  cfg := cfg
  port := port
  resets := resets

/-- The machine right after reset (R33): parameters as notes/assumptions/3.md says, and nothing on the command port
(notes/assumptions/2.md). -/
def State.reset : State := State.resetWith Params.default 0 []

end Sys2Proof.Machine
end

