-- ==== Sys2Proof/Machine/BitSeqs.lean ====
section
/-! DEFINITION. The sequence primitives of the spec's pseudocode: slices, zeros, rotate right (00_scope.md R5, R9, R10), byte
from bits (R8), and the value-level functions of the BVU: chunk reversal (40_bitvector.md R109), XOR (R112), packing
(R113). -/

namespace Sys2Proof.Machine

/-- `v[i..j)`: the elements of v at the indices i, ..., j-1 (R9). -/
def slice (v : BitSeq) (i j : Nat) : BitSeq := (v.take j).drop i

/-- `zeros(n)` (R9). -/
def zeros (n : Nat) : BitSeq := List.replicate n false

/-- `rotr(v, n)` for n <= len(v): the last n elements come to the head (R10). -/
def rotr (v : BitSeq) (n : Nat) : BitSeq := slice v (v.length - n) v.length ++ slice v 0 (v.length - n)

/-- The value of a bit group as an unsigned number, the element with the lowest index most significant (R8). -/
def bitsToNat (g : BitSeq) : Nat := g.foldl (fun acc bit => 2 * acc + bit.toNat) 0

/-- `byte_msb(g)` for a group of 1 to 8 bits: fewer than 8 bits are the low-order bits of the byte (R8). -/
def byteMsb (g : BitSeq) : Byte := BitVec.ofNat 8 (bitsToNat g)

/-- The number of 8-bit chunks of v, the last one possibly short: ceil(len(v) / 8) (R109, R113). -/
def numChunks (v : BitSeq) : Nat := (v.length + 7) / 8

/-- Chunk k of v, counted from the head: `v[8k..8k+8)`, short when v ends inside it (R109). -/
def chunk (v : BitSeq) (k : Nat) : BitSeq := slice v (8 * k) (8 * k + 8)

/-- The chunks c_0, c_1, ... of v (R109). -/
def chunks (v : BitSeq) : List BitSeq := (List.range (numChunks v)).map (chunk v)

/-- `reverse(v)`: the chunks in the opposite order, each chunk's bits in their own order (R109). -/
def reverseChunks (v : BitSeq) : BitSeq := (chunks v).reverse.flatten

/-- `pack(v)`: one byte a chunk, MSB first; a trailing partial group is right-aligned (R113). -/
def pack (v : BitSeq) : List Byte := (chunks v).map byteMsb

/-- Element-wise XOR of two sequences of one length (R112). -/
def xorSeq (x y : BitSeq) : BitSeq := List.zipWith xor x y

end Sys2Proof.Machine
end

