-- ==== Sys2Proof/Machine/Flags.lean ====
section
/-! DEFINITION. The codes the report registers hold (60_exceptions.md R241, R242) and the conditions the commands test
(10_state.md R24: the derived flag `halted`; 43_trivium_engine.md R202: the warm-up threshold). -/

namespace Sys2Proof.Machine

/-- The errors the block reports in STATUS (R241). -/
inductive CmdError where
  | invalidBit
  | lengthMismatch
  | invalidKeyLength
  | invalidIvLength
  | notWarmedUp
deriving DecidableEq, Repr

/-- The STATUS code of an error (R241). -/
def CmdError.code : CmdError → BitVec 8
  | .invalidBit => 0x01
  | .lengthMismatch => 0x02
  | .invalidKeyLength => 0x03
  | .invalidIvLength => 0x04
  | .notWarmedUp => 0x05

/-- The faults the block records in FAULT (R242). -/
inductive BlockFault where
  | illegalCommand
  | indexRange
  | shiftRange
  | capacityOverflow
  | bufferRange
  | engineNotInitialized
deriving DecidableEq, Repr

/-- The FAULT code of a fault (R242). -/
def BlockFault.code : BlockFault → BitVec 8
  | .illegalCommand => 0x81
  | .indexRange => 0x82
  | .shiftRange => 0x83
  | .capacityOverflow => 0x84
  | .bufferRange => 0x85
  | .engineNotInitialized => 0x86

/-- `halted`: FAULT != 0 (10_state.md R24). -/
def State.halted (s : State) : Bool := s.FAULT != 0

/-- At least 1152 updates have run: the test `count >= 1152` of the update transition, and the opposite of the test
`count < 1152` of TRV.ENC and TRV.DEC (R202). -/
def warmedUp (count : Nat) : Bool := warmupThreshold ≤ count

end Sys2Proof.Machine
end

