-- ==== Sys2Proof/Machine/Ops.lean ====
section
/-! DEFINITION. The shared operations: BUF byte by byte (20_memory.md R50, R54), the BitVector register file (10_state.md
R21), the ways a command ends (60_exceptions.md R240: success, error, fault, ignored), and reset, the only way out of a
fault (R245, 70_reset_and_hazards.md R270). -/

namespace Sys2Proof.Machine

/-- The canonical form of BUF: addresses strictly rising. -/
abbrev Memory.wf (m : Memory) : Prop := m.Pairwise fun p q => p.1 < q.1

/-- The value of the byte at an address; `none` when nothing has written it since reset (R54). -/
def Memory.read? : Memory → Nat → Option Byte
  | [], _ => none
  | (k, x) :: rest, a => if a = k then some x else Memory.read? rest a

/-- Write one byte, keeping the canonical form (R54: a read returns the last value written). -/
def Memory.write : Memory → Nat → Byte → Memory
  | [], a, y => [(a, y)]
  | (k, x) :: rest, a, y =>
    if a < k then (a, y) :: (k, x) :: rest
    else if a = k then (k, y) :: rest
    else (k, x) :: Memory.write rest a y

/-- `MemWrite(addr, n, v)`: the bytes of v at addr, addr + 1, ..., in ascending order (00_scope.md R9, R54). -/
def Memory.writeBytes : Memory → Nat → List Byte → Memory
  | m, _, [] => m
  | m, a, y :: ys => Memory.writeBytes (m.write a y) (a + 1) ys

/-- `b[r]` (00_scope.md R9). -/
def State.readB (s : State) (r : BReg) : BitSeq := s.b[r]

/-- `b[r] <- v` (00_scope.md R9). -/
def State.writeB (s : State) (r : BReg) (v : BitSeq) : State := { s with b := s.b.set r v }

/-- `RES <- x` (10_state.md R26). -/
def State.writeRes (s : State) (x : BitVec 64) : State := { s with RES := x }

/-- A command that succeeds: STATUS <- 0x00, INFO <- 0 (10_state.md R25, 30_encoding.md R83). -/
def State.succeed (s : State) : Result := .next { s with STATUS := 0, INFO := 0 }

/-- `raise e(info)`: the command ends in an error. STATUS and INFO are written and nothing else (R243). -/
def State.raiseError (s : State) (e : CmdError) (info : BitVec 32) : Result :=
  .next { s with STATUS := e.code, INFO := info }

/-- `fault f(info)`: the command ends in a fault, the block's one kind of exception entry. FAULT and FINFO are written and
nothing else, and the block is halted from then on (R244). -/
def State.takeFault (s : State) (f : BlockFault) (info : BitVec 32) : Result :=
  .next { s with FAULT := f.code, FINFO := info }

/-- The first check of every command: a halted block ignores it and changes no state (R245, 30_encoding.md R83). -/
def State.unlessHalted (s : State) (r : Result) : Result := if s.halted then .next s else r

/-- Reset, the only way out of the halted state (R245, R270, R271): the values of 10_state.md R33. The parameters and the
host's remaining actions stay, and unwritten BUF bytes get new free values (notes/assumptions/4.md). -/
def State.applyReset (s : State) : State := State.resetWith s.cfg (s.resets + 1) s.port

/-- The host writes one byte of BUF between two commands, halted or not (10_state.md R32, R245); an address that BUF does
not have is no byte to write (20_memory.md R50, notes/assumptions/8.md). -/
def State.hostWrite (s : State) (addr : Nat) (byte : Byte) : Result :=
  if addr < s.cfg.bufBytes then .next { s with BUF := s.BUF.write addr byte } else .fault (.hostWriteOutsideBuf addr)

end Sys2Proof.Machine
end

