-- ==== Sys2Proof/Machine/Operands.lean ====
section
/-! DEFINITION. How commands reach their operands: BUF ranges (20_memory.md R50, R55), bytes read and written (00_scope.md
R9), zero extension of lengths and indices (R9), and the engine checks that stand before a command's own checks
(30_encoding.md R83 step 3). -/

namespace Sys2Proof.Machine

/-- `zext_32` of an index, a count, an address or a length (00_scope.md R9). -/
def zext32 (n : Nat) : BitVec 32 := BitVec.ofNat 32 n

/-- `zext_64` of a length or a byte count (00_scope.md R9). -/
def zext64 (n : Nat) : BitVec 64 := BitVec.ofNat 64 n

/-- The n bytes from addr are all inside BUF: addr + n <= BUF_BYTES, without wrap-around (20_memory.md R55). -/
def State.inBuf (s : State) (addr n : Nat) : Bool := addr + n ≤ s.cfg.bufBytes

/-- A sequence of n bits fits a BitVector register or the keystream buffer: n <= BV_CAP (00_scope.md R4). -/
def State.fitsCap (s : State) (n : Nat) : Bool := n ≤ s.cfg.bvCap

/-- What a command finds at a BUF address: the last value written since reset, and where there is none a free value
(20_memory.md R54, 93_implementation_defined.md U9, notes/assumptions/4.md). -/
def State.bufByte (s : State) (a : Nat) : Byte := (s.BUF.read? a).getD (Config.unwrittenByte s.resets a)

/-- `MemRead(addr, n)`: the bytes at addr, ..., addr + n - 1, in that order (00_scope.md R9). -/
def State.memRead (s : State) (addr n : Nat) : List Byte := (List.range n).map fun i => s.bufByte (addr + i)

/-- `MemWrite(addr, n, v)` for the n bytes of v (00_scope.md R9). -/
def State.memWrite (s : State) (addr : Nat) (ys : List Byte) : State := { s with BUF := s.BUF.writeBytes addr ys }

/-- A byte is a wire bit: exactly 0x00 or 0x01 (20_memory.md R62). -/
def isWireBit (y : Byte) : Bool := y == 0 || y == 1

/-- The wire byte of a bit (20_memory.md R62). -/
def wireByte (bit : Bit) : Byte := if bit then 1 else 0

/-- The DESU check: with des_valid = 0 the command `i` faults EngineNotInitialized, FINFO = its op (60_exceptions.md R242). -/
def State.whenDesValid (s : State) (i : Instr) (r : Result) : Result :=
  if s.desValid then r else s.takeFault .engineNotInitialized (i.opcode.setWidth 32)

/-- The TRVU check: with trv_valid = 0 the command `i` faults EngineNotInitialized, FINFO = its op (60_exceptions.md R242). -/
def State.whenTrvValid (s : State) (i : Instr) (r : Result) : Result :=
  if s.trvValid then r else s.takeFault .engineNotInitialized (i.opcode.setWidth 32)

end Sys2Proof.Machine
end

