-- ==== Sys2Proof/Machine/Bvu.lean ====
section
/-! DEFINITION. The meanings of the 13 BVU commands (40_bitvector.md R102 to R116). Each goes through the checks in the order
of its rule; the halted check comes first (30_encoding.md R83) and every source is read before anything is written
(R82). -/

namespace Sys2Proof.Machine

/-- BV.CONSTRUCT (R102): range check, capacity check, then the first byte in ascending address order that is no wire bit
is the error InvalidBit; otherwise b[rd] gets the n bits. -/
def execBvConstruct (rd : BReg) (n addr : Nat) (s : State) : Result :=
  s.unlessHalted <|
    if !s.inBuf addr n then s.takeFault .bufferRange (zext32 addr)
    else if !s.fitsCap n then s.takeFault .capacityOverflow 0
    else
      match (s.memRead addr n).find? (fun y => !isWireBit y) with
      | some bad => s.raiseError .invalidBit (bad.setWidth 32)
      | none => (s.writeB rd ((s.memRead addr n).map fun y => y == 1)).succeed

/-- BV.GET (R103): RES gets bit i of b[ra]. -/
def execBvGet (ra : BReg) (i : Nat) (s : State) : Result :=
  s.unlessHalted <|
    match (s.readB ra)[i]? with
    | none => s.takeFault .indexRange (zext32 i)
    | some bit => (s.writeRes (zext64 bit.toNat)).succeed

/-- BV.SET (R104): bit i of b[rd] is replaced. -/
def execBvSet (rd : BReg) (i : Nat) (bit : Bit) (s : State) : Result :=
  let v := s.readB rd
  s.unlessHalted <|
    if v.length ≤ i then s.takeFault .indexRange (zext32 i)
    else (s.writeB rd (slice v 0 i ++ [bit] ++ slice v (i + 1) v.length)).succeed

/-- BV.INSERT (R105): the bit goes in before index i; i = len appends. -/
def execBvInsert (rd : BReg) (i : Nat) (bit : Bit) (s : State) : Result :=
  let v := s.readB rd
  s.unlessHalted <|
    if v.length < i then s.takeFault .indexRange (zext32 i)
    else if !s.fitsCap (v.length + 1) then s.takeFault .capacityOverflow 0
    else (s.writeB rd (slice v 0 i ++ [bit] ++ slice v i v.length)).succeed

/-- BV.APPEND (R106): the bit goes after the tail. -/
def execBvAppend (rd : BReg) (bit : Bit) (s : State) : Result :=
  let v := s.readB rd
  s.unlessHalted <|
    if !s.fitsCap (v.length + 1) then s.takeFault .capacityOverflow 0
    else (s.writeB rd (v ++ [bit])).succeed

/-- BV.SHL (R107): n zero bits are appended at the tail; no bit moves. -/
def execBvShl (rd : BReg) (n : Nat) (s : State) : Result :=
  let v := s.readB rd
  s.unlessHalted <|
    if !s.fitsCap (v.length + n) then s.takeFault .capacityOverflow 0
    else (s.writeB rd (v ++ zeros n)).succeed

/-- BV.SHR (R108): rotate right by n, then zero the first n bits. -/
def execBvShr (rd : BReg) (n : Nat) (s : State) : Result :=
  let v := s.readB rd
  s.unlessHalted <|
    if v.length < n then s.takeFault .shiftRange (zext32 n)
    else (s.writeB rd (zeros n ++ slice (rotr v n) n v.length)).succeed

/-- BV.REV (R110): b[rd] gets the chunk reversal of b[ra]. -/
def execBvRev (rd ra : BReg) (s : State) : Result :=
  s.unlessHalted (s.writeB rd (reverseChunks (s.readB ra))).succeed

/-- BV.REVI (R111): b[rd] is chunk-reversed in place. -/
def execBvRevi (rd : BReg) (s : State) : Result :=
  s.unlessHalted (s.writeB rd (reverseChunks (s.readB rd))).succeed

/-- BV.XOR (R112): element-wise XOR of two registers of one length, else the error LengthMismatch. -/
def execBvXor (rd ra rb : BReg) (s : State) : Result :=
  let x := s.readB ra
  let y := s.readB rb
  s.unlessHalted <|
    if x.length ≠ y.length then s.raiseError .lengthMismatch 0
    else (s.writeB rd (xorSeq x y)).succeed

/-- BV.PACK (R114): the packed bytes of b[ra] go to BUF, their number to RES. -/
def execBvPack (ra : BReg) (addr : Nat) (s : State) : Result :=
  let ys := pack (s.readB ra)
  s.unlessHalted <|
    if !s.inBuf addr ys.length then s.takeFault .bufferRange (zext32 addr)
    else ((s.memWrite addr ys).writeRes (zext64 ys.length)).succeed

/-- BV.STORE (R115): b[ra] goes to BUF in wire representation, the number of bytes to RES. -/
def execBvStore (ra : BReg) (addr : Nat) (s : State) : Result :=
  let ys := (s.readB ra).map wireByte
  s.unlessHalted <|
    if !s.inBuf addr ys.length then s.takeFault .bufferRange (zext32 addr)
    else ((s.memWrite addr ys).writeRes (zext64 ys.length)).succeed

/-- BV.LEN (R116): RES gets the length of b[ra]. -/
def execBvLen (ra : BReg) (s : State) : Result :=
  s.unlessHalted (s.writeRes (zext64 (s.readB ra).length)).succeed

end Sys2Proof.Machine
end

