-- ==== Sys2Proof/Machine/Des.lean ====
section
/-! DEFINITION. The value-level functions of the DESU (42_des_engine.md): key schedule (R161), substitution layer (R162), round
function (R163), Feistel round (R164), one block (R165, R166). -/

namespace Sys2Proof.Machine

/-- `rotl28(x, n)`: left circular rotation of a 28-bit half (R161). -/
def rotl28 (x : BitVec 28) (n : Nat) : BitVec 28 := (x <<< n) ||| (x >>> (28 - n))

/-- The subkey of the rotated halves C and D: PC-2 of C || D in a 64-bit register, bits 63:48 zero (R161, 10_state.md R28). -/
def subkeyOf (C D : BitVec 28) : BitVec 64 := (permute 48 tablePC2 (C ++ D)).setWidth 64

/-- The subkeys for a list of rotation amounts, each round rotating the halves as the round before left them (R161). -/
def subkeysFrom : List Nat → BitVec 28 → BitVec 28 → List (BitVec 64)
  | [], _, _ => []
  | n :: rest, C, D => subkeyOf (rotl28 C n) (rotl28 D n) :: subkeysFrom rest (rotl28 C n) (rotl28 D n)

/-- One subkey for each rotation amount. -/
theorem subkeysFrom_length (amounts : List Nat) (C D : BitVec 28) :
    (subkeysFrom amounts C D).length = amounts.length := by
  induction amounts generalizing C D with
  | nil => rfl
  | cons n rest ih => simp [subkeysFrom, ih]

/-- The high half C of the PC-1 output (R161). -/
def keyHalfC (key : BitVec 64) : BitVec 28 := (permute 56 tablePC1 key).extractLsb' 28 28

/-- The low half D of the PC-1 output (R161). -/
def keyHalfD (key : BitVec 64) : BitVec 28 := (permute 56 tablePC1 key).extractLsb' 0 28

/-- `schedule(key)`: the 16 subkeys of a 64-bit key (R161). -/
def schedule (key : BitVec 64) : Vector (BitVec 64) 16 :=
  ⟨(subkeysFrom shiftAmounts (keyHalfC key) (keyHalfD key)).toArray, by simp [subkeysFrom_length, shiftAmounts]⟩

/-- The 6-bit group j = 1 .. 8 of the 48-bit input, group 1 the most significant: x[48-6(j-1)-1 : 48-6j] (R162). PRESUMED, as
is the row's order (notes/assumptions/9.md). -/
def sboxGroup (x : BitVec 48) (j : Nat) : BitVec 6 := x.extractLsb' (48 - 6 * j) 6

/-- The row 2*g[5] + g[0] of a group (R162). -/
def sboxRow (g : BitVec 6) : Nat := 2 * (g.getLsbD 5).toNat + (g.getLsbD 0).toNat

/-- The column g[4:1] of a group (R162). -/
def sboxCol (g : BitVec 6) : Nat := (g.extractLsb' 1 4).toNat

/-- The entry of a substitution table that a 6-bit group selects (R162). -/
def sboxEntry (table : List (List Nat)) (g : BitVec 6) : Nat := (table.getD (sboxRow g) []).getD (sboxCol g) 0

/-- `sbox(x)`: the eight groups through S1 to S8, the 4-bit results concatenated in the same order (R162). -/
def sbox (x : BitVec 48) : BitVec 32 :=
  BitVec.ofNat 32
    ((List.range 8).foldl (fun y j => 16 * y + sboxEntry (substitutionTables.getD j []) (sboxGroup x (j + 1))) 0)

/-- The round function `f(R, k)`, reading k[47:0] of a subkey register (R163). -/
def roundF (R : BitVec 32) (k : BitVec 64) : BitVec 32 :=
  permute 32 tableP (sbox (permute 48 tableE R ^^^ k.setWidth 48))

/-- A Feistel round: (L, R) becomes (R, L xor f(R, k)) (R164). -/
def feistelRound (LR : BitVec 32 × BitVec 32) (k : BitVec 64) : BitVec 32 × BitVec 32 :=
  (LR.2, LR.1 ^^^ roundF LR.2 k)

/-- `crypt_block(x, k, order)`, the subkeys given in use order: IP, the rounds, right || left, FP (R165). -/
def cryptBlock (x : BitVec 64) (subkeys : List (BitVec 64)) : BitVec 64 :=
  let y := permute 64 tableIP x
  let LR := subkeys.foldl feistelRound (y.extractLsb' 32 32, y.extractLsb' 0 32)
  permute 64 tableFP (LR.2 ++ LR.1)

/-- `encrypt_block(x, k)`: subkey order 0 .. 15 (R165). -/
def encryptBlock (x : BitVec 64) (K : Vector (BitVec 64) 16) : BitVec 64 := cryptBlock x K.toList

/-- `decrypt_block(x, k)`: subkey order 15 .. 0 (R166). -/
def decryptBlock (x : BitVec 64) (K : Vector (BitVec 64) 16) : BitVec 64 := cryptBlock x K.toList.reverse

end Sys2Proof.Machine
end

