-- ==== Sys2Proof/Machine/Desu.lean ====
section
/-! DEFINITION. The meanings of the four DESU commands (42_des_engine.md R167 to R170). No DESU command has an error (R175). -/

namespace Sys2Proof.Machine

/-- `ensure_schedule()`: compute K once per key (R168). -/
def State.ensureSchedule (s : State) : State :=
  if s.desScheduled then s else { s with K := schedule s.desKey, desScheduled := true }

/-- DES.LOADKEY (R167): a new engine with this key; the cache is cleared, so it can never be stale (90_conflicts.md C2). -/
def execDesLoadKey (key : BitVec 64) (s : State) : Result :=
  s.unlessHalted <|
    State.succeed { s with desKey := key, K := Vector.replicate 16 0, desScheduled := false, desValid := true }

/-- DES.SCHED (R168): the explicit call of the key schedule. -/
def execDesSched (s : State) : Result :=
  s.unlessHalted <| s.whenDesValid .desSched <| s.ensureSchedule.succeed

/-- DES.ENC (R169): RES gets the encrypted block. -/
def execDesEnc (block : BitVec 64) (s : State) : Result :=
  s.unlessHalted <| s.whenDesValid (.desEnc block) <|
    (s.ensureSchedule.writeRes (encryptBlock block s.ensureSchedule.K)).succeed

/-- DES.DEC (R170): RES gets the decrypted block. -/
def execDesDec (block : BitVec 64) (s : State) : Result :=
  s.unlessHalted <| s.whenDesValid (.desDec block) <|
    (s.ensureSchedule.writeRes (decryptBlock block s.ensureSchedule.K)).succeed

end Sys2Proof.Machine
end

