-- ==== Sys2Proof/Machine/Trivium.lean ====
section
/-! DEFINITION. The update transition of the TRVU (43_trivium_engine.md R191, R192, R202, R199). Bit i of the 288-bit vector is
s[i]. The positions are the spec's own general knowledge, PRESUMED (93_implementation_defined.md G8; notes/assumptions/10.md). -/

namespace Sys2Proof.Machine

/-- The part of the state that an update reads and writes: `s`, `count`, `ks` (10_state.md R29). -/
structure StreamCore where
  sreg : BitVec 288
  count : Nat
  ks : BitSeq
deriving DecidableEq, Repr

/-- `s[i]` (00_scope.md R9). -/
def sBit (x : BitVec 288) (i : Nat) : Bit := x.getLsbD i

/-- `s[i] <- bit` (00_scope.md R9). -/
def setSBit (x : BitVec 288) (i : Nat) (bit : Bit) : BitVec 288 :=
  (x &&& ~~~(1#288 <<< i)) ||| (if bit then 1#288 <<< i else 0#288)

/-- `rotr(s, 1)`: s[i] moves to s[i+1] and s[287] to s[0] (R192, 00_scope.md R10), so the vector rotates towards its higher
bit numbers. -/
def rotrS (x : BitVec 288) : BitVec 288 := x.rotateLeft 1

/-- The tap value t1 (R191). -/
def tap1 (x : BitVec 288) : Bit := sBit x 65 ^^ sBit x 92

/-- The tap value t2 (R191). -/
def tap2 (x : BitVec 288) : Bit := sBit x 161 ^^ sBit x 176

/-- The tap value t3 (R191). -/
def tap3 (x : BitVec 288) : Bit := sBit x 242 ^^ sBit x 287

/-- The feedback bit f1 (R191). -/
def feedback1 (x : BitVec 288) : Bit := tap1 x ^^ (sBit x 90 && sBit x 91) ^^ sBit x 170

/-- The feedback bit f2 (R191). -/
def feedback2 (x : BitVec 288) : Bit := tap2 x ^^ (sBit x 174 && sBit x 175) ^^ sBit x 263

/-- The feedback bit f3 (R191). -/
def feedback3 (x : BitVec 288) : Bit := tap3 x ^^ (sBit x 285 && sBit x 286) ^^ sBit x 68

/-- The keystream bit of a state: the XOR of the three tap values (R192 step 2). -/
def keystreamBit (x : BitVec 288) : Bit := tap1 x ^^ tap2 x ^^ tap3 x

/-- The state bits after an update: rotate, then overwrite the first bit of each segment (R192 step 4). -/
def nextSreg (x : BitVec 288) : BitVec 288 :=
  setSBit (setSBit (setSBit (rotrS x) 0 (feedback3 x)) 93 (feedback1 x)) 177 (feedback2 x)

/-- `update()` (R192): from count >= 1152 on, the keystream bit is prepended to ks. -/
def StreamCore.update (c : StreamCore) : StreamCore where
  sreg := nextSreg c.sreg
  count := c.count + 1
  ks := if warmedUp c.count then keystreamBit c.sreg :: c.ks else c.ks

/-- n updates (R195). -/
def StreamCore.updates : Nat → StreamCore → StreamCore
  | 0, c => c
  | n + 1, c => (StreamCore.updates n c).update

/-- p, the number of keystream bits that n updates from a count produce: max(0, count + n - max(count, 1152)) (R195). The
subtraction of natural numbers stops at 0. -/
def producedBits (count n : Nat) : Nat := count + n - max count warmupThreshold

/-- The 288-bit state that TRV.INIT loads: key bit i to s[i], IV bit i to s[93+i], s[285] = s[286] = s[287] = 1, every other
bit 0 (R193). -/
def loadKeyIv (key iv : BitSeq) : BitVec 288 :=
  let withKey := (List.range streamKeyBits).foldl (fun x i => setSBit x i (key.getD i false)) 0#288
  let withIv := (List.range streamKeyBits).foldl (fun x i => setSBit x (93 + i) (iv.getD i false)) withKey
  setSBit (setSBit (setSBit withIv 285 true) 286 true) 287 true

end Sys2Proof.Machine
end

