-- ==== Sys2Proof/Machine/Trvu.lean ====
section
/-! DEFINITION. The meanings of the six TRVU commands (43_trivium_engine.md R193 to R198). No TRVU command writes RES. -/

namespace Sys2Proof.Machine

/-- The stream engine inside the state. -/
def State.stream (s : State) : StreamCore := ⟨s.sreg, s.count, s.ks⟩

/-- The state with another stream engine inside. -/
def State.withStream (s : State) (c : StreamCore) : State := { s with sreg := c.sreg, count := c.count, ks := c.ks }

/-- `run_updates(n)`: the capacity check for all n updates first, then the updates (R195). -/
def State.runUpdates (s : State) (n : Nat) : Result :=
  if !s.fitsCap (s.ks.length + producedBits s.count n) then s.takeFault .capacityOverflow 0
  else (s.withStream (s.stream.updates n)).succeed

/-- The common effect of TRV.ENC and TRV.DEC (R196, R197): NotWarmedUp before LengthMismatch, then operand XOR keystream. -/
def State.xorKeystream (s : State) (rd ra : BReg) : Result :=
  if !warmedUp s.count then s.raiseError .notWarmedUp 0
  else if (s.readB ra).length ≠ s.ks.length then s.raiseError .lengthMismatch 0
  else (s.writeB rd (xorSeq (s.readB ra) s.ks)).succeed

/-- TRV.INIT (R193): key length, then IV length, then a new engine. -/
def execTrvInit (ra rb : BReg) (s : State) : Result :=
  let key := s.readB ra
  let iv := s.readB rb
  s.unlessHalted <|
    if key.length ≠ streamKeyBits then s.raiseError .invalidKeyLength (zext32 key.length)
    else if iv.length ≠ streamKeyBits then s.raiseError .invalidIvLength (zext32 iv.length)
    else State.succeed { s with sreg := loadKeyIv key iv, count := 0, ks := [], trvValid := true }

/-- TRV.WARMUP (R194): always exactly 1152 updates. -/
def execTrvWarmup (s : State) : Result :=
  s.unlessHalted <| s.whenTrvValid .trvWarmup <| s.runUpdates warmupThreshold

/-- TRV.GEN (R195): n updates. -/
def execTrvGen (n : Nat) (s : State) : Result :=
  s.unlessHalted <| s.whenTrvValid (.trvGen n) <| s.runUpdates n

/-- TRV.ENC (R196). -/
def execTrvEnc (rd ra : BReg) (s : State) : Result :=
  s.unlessHalted <| s.whenTrvValid (.trvEnc rd ra) <| s.xorKeystream rd ra

/-- TRV.DEC (R197): the same operation. -/
def execTrvDec (rd ra : BReg) (s : State) : Result :=
  s.unlessHalted <| s.whenTrvValid (.trvDec rd ra) <| s.xorKeystream rd ra

/-- TRV.KS (R198): the keystream buffer is copied to b[rd]. -/
def execTrvKs (rd : BReg) (s : State) : Result :=
  s.unlessHalted <| s.whenTrvValid (.trvKs rd) <| (s.writeB rd s.ks).succeed

end Sys2Proof.Machine
end

