-- ==== Sys2Proof/Machine/Dispatch.lean ====
section
/-! DEFINITION. One arm per command (30_encoding.md R73): each is a call of that command's meaning. -/

namespace Sys2Proof.Machine

/-- What a command does in a state. -/
def exec (i : Instr) (s : State) : Host.Outcome State Fault Refusal :=
  match i with
  | .bvConstruct rd n addr => Sys2Proof.Machine.execBvConstruct rd n addr s
  | .bvGet ra idx => Sys2Proof.Machine.execBvGet ra idx s
  | .bvSet rd idx bit => Sys2Proof.Machine.execBvSet rd idx bit s
  | .bvInsert rd idx bit => Sys2Proof.Machine.execBvInsert rd idx bit s
  | .bvAppend rd bit => Sys2Proof.Machine.execBvAppend rd bit s
  | .bvShl rd n => Sys2Proof.Machine.execBvShl rd n s
  | .bvShr rd n => Sys2Proof.Machine.execBvShr rd n s
  | .bvRev rd ra => Sys2Proof.Machine.execBvRev rd ra s
  | .bvRevi rd => Sys2Proof.Machine.execBvRevi rd s
  | .bvXor rd ra rb => Sys2Proof.Machine.execBvXor rd ra rb s
  | .bvPack ra addr => Sys2Proof.Machine.execBvPack ra addr s
  | .bvStore ra addr => Sys2Proof.Machine.execBvStore ra addr s
  | .bvLen ra => Sys2Proof.Machine.execBvLen ra s
  | .desLoadKey key => Sys2Proof.Machine.execDesLoadKey key s
  | .desSched => Sys2Proof.Machine.execDesSched s
  | .desEnc block => Sys2Proof.Machine.execDesEnc block s
  | .desDec block => Sys2Proof.Machine.execDesDec block s
  | .trvInit ra rb => Sys2Proof.Machine.execTrvInit ra rb s
  | .trvWarmup => Sys2Proof.Machine.execTrvWarmup s
  | .trvGen n => Sys2Proof.Machine.execTrvGen n s
  | .trvEnc rd ra => Sys2Proof.Machine.execTrvEnc rd ra s
  | .trvDec rd ra => Sys2Proof.Machine.execTrvDec rd ra s
  | .trvKs rd => Sys2Proof.Machine.execTrvKs rd s

end Sys2Proof.Machine
end

