-- ==== Sys2Proof/Machine/Port.lean ====
section
/-! DEFINITION. What the block does with one host action: a command word goes through the halted check, the decoder and its
meaning (30_encoding.md R83); a BUF write and a reset come from the host alone (10_state.md R32, 70_reset_and_hazards.md
R270). -/

namespace Sys2Proof.Machine

/-- `cmd[127:96]`, what FINFO records of an illegal word (60_exceptions.md R242). -/
def illegalInfo (w : CmdWord) : BitVec 32 := w.extractLsb' 96 32

/-- A command word arrives at the block (R83): ignored while halted, not even decoded (60_exceptions.md R245); an illegal word
faults IllegalCommand (R75, R76); a command has its meaning. One call runs exactly one command from its first check to its
last effect: no break or watch condition is tested and nothing is traced or counted (60_exceptions.md R256). -/
def State.issue (s : State) (w : CmdWord) : Result :=
  s.unlessHalted <|
    match decode w with
    | .error _ => s.takeFault .illegalCommand (illegalInfo w)
    | .ok i => exec i s

/-- One host action in a state from whose port it has already been taken. -/
def State.serve (s : State) : HostAction → Result
  | .command w => s.issue w
  | .writeBuf addr byte => s.hostWrite addr byte
  | .reset => .next s.applyReset

/-- The first host action is taken from the port and served; with nothing on the port the block waits (00_scope.md R11,
notes/assumptions/1.md). It is served whole and alone, so each command is a single step to the host (60_exceptions.md R256). -/
def State.serveNext (s : State) : Result :=
  match s.port with
  | [] => .next s
  | a :: rest => State.serve { s with port := rest } a

/-- The word of spec/opcode_table.json, numbered `cmd[127:0]`, with the bits above `nbits` cleared (30_encoding.md R70). -/
def tableWord (nbits w : Nat) : CmdWord := BitVec.ofNat 128 (w % 2 ^ nbits)

/-- A state whose next host action is the given command word. -/
def State.withCommand (s : State) (w : CmdWord) : State := { s with port := .command w :: s.port }

end Sys2Proof.Machine
end

