-- ==== Sys2Proof/Machine/Step.lean ====
section
/-! DEFINITION. One step: the next host action is served (00_scope.md R11, 10_state.md R23). -/

namespace Sys2Proof.Machine

/-- One step of the block and its host. A command runs whole in one step, and after every step the host sees the block: every
command is a single step to the host, which is all the stepping there is (60_exceptions.md R256). -/
def step : State → Host.Outcome State Fault Refusal := State.serveNext

/-- The state with a command word of spec/opcode_table.json as the host's next command: the block has no fetch and no program
memory (10_state.md R23), so this is all a command needs to run (notes/assumptions/2.md). -/
def State.withFetchWord (s : State) (nbits w : Nat) : State := s.withCommand (tableWord nbits w)

end Sys2Proof.Machine
end

