-- ==== Sys2Proof/Machine/HexCodec.lean ====
section
/-! DEFINITION. HexCodec, the host's side of the interface, as pure functions (44_hexcodec_host.md): it is outside the block,
holds no state and issues no command by itself (R220); the source's scenarios are stated through it. -/

namespace Sys2Proof.Machine

/-- The value of an ASCII hex digit, upper or lower case (R221). PRESUMED (notes/assumptions/11.md). -/
def hexDigit? (c : Byte) : Option Nat :=
  let n := c.toNat
  if 48 ≤ n ∧ n ≤ 57 then some (n - 48)
  else if 65 ≤ n ∧ n ≤ 70 then some (n - 55)
  else if 97 ≤ n ∧ n ≤ 102 then some (n - 87)
  else none

/-- The bytes of a text read as pairs of hex digits; `none` when a byte is no hex digit or their number is odd (R221). -/
def hexPairs? : List Byte → Option (List Byte)
  | [] => some []
  | [_] => none
  | hi :: lo :: rest =>
    match hexDigit? hi, hexDigit? lo, hexPairs? rest with
    | some h, some l, some bytes => some (BitVec.ofNat 8 (16 * h + l) :: bytes)
    | _, _, _ => none

/-- `decode(text)`: hex text is decoded, any other text is kept byte for byte; it never fails (R221, R226). -/
def hexDecode (text : List Byte) : List Byte := (hexPairs? text).getD text

/-- The bits of a byte, high bit first (R222). -/
def byteBits (y : Byte) : BitSeq := (List.range 8).map fun j => y.getLsbD (7 - j)

/-- `to_bits_msb()`: each byte in order, high bit first (R222). -/
def toBitsMsb (bytes : List Byte) : BitSeq := bytes.flatMap byteBits

/-- `to_bits_lsb()`: the bytes in reverse order, each high bit first (R223). -/
def toBitsLsb (bytes : List Byte) : BitSeq := toBitsMsb bytes.reverse

/-- The upper-case hex digit of a value below 16 (R224). -/
def hexChar (n : Nat) : Byte := if n < 10 then BitVec.ofNat 8 (48 + n) else BitVec.ofNat 8 (55 + n)

/-- `encode_upper()`: two upper-case hex digits a byte, high nibble first (R224). -/
def encodeUpper (bytes : List Byte) : List Byte :=
  bytes.flatMap fun y => [hexChar (y.toNat / 16), hexChar (y.toNat % 16)]

/-- `as_u64()`: the big-endian fold of at most 8 bytes; a longer value has no result (R225, U4). -/
def asU64 (bytes : List Byte) : Option (BitVec 64) :=
  if bytes.length ≤ 8 then some (BitVec.ofNat 64 (bytes.foldl (fun acc y => acc * 256 + y.toNat) 0)) else none

/-- The eight bytes of RES, most significant first, as a host renders a block (R228). -/
def blockBytes (x : BitVec 64) : List Byte := (List.range 8).map fun k => x.extractLsb' (8 * (7 - k)) 8

/-- The host writes a bit sequence to BUF in wire representation, index 0 at the lowest address (R228, 20_memory.md R62). -/
def wireWrites : Nat → BitSeq → List HostAction
  | _, [] => []
  | addr, bit :: rest => .writeBuf addr (wireByte bit) :: wireWrites (addr + 1) rest

end Sys2Proof.Machine
end

