-- ==== Sys2Proof/Safety.lean ====
section
/-! DEFINITION. The terms claims about RCA-CORE use: what the host sees (10_state.md R32), the ways a command ends
(60_exceptions.md R240, R243, R244), which of them each command has (R120, R258), and the invariant of every reachable
state. -/

namespace Sys2Proof.Machine

/-- What the host can read between two commands (10_state.md R32): the report registers and BUF, and nothing else. -/
structure HostView where
  STATUS : BitVec 8
  INFO : BitVec 32
  RES : BitVec 64
  FAULT : BitVec 8
  FINFO : BitVec 32
  BUF : Memory
deriving DecidableEq, Repr

/-- What the host sees of a state (R32). -/
def State.hostView (s : State) : HostView :=
  { STATUS := s.STATUS, INFO := s.INFO, RES := s.RES, FAULT := s.FAULT, FINFO := s.FINFO, BUF := s.BUF }

/-- From s to t the command succeeded and wrote the sequence v to `b[rd]`: STATUS and INFO are 0, every other register and
everything outside b, STATUS and INFO is as it was. -/
def WroteReg (s t : State) (rd : BReg) (v : BitSeq) : Prop :=
  t.readB rd = v ∧ (∀ r, r ≠ rd → t.readB r = s.readB r) ∧ t.STATUS = 0 ∧ t.INFO = 0 ∧
    { t with b := s.b, STATUS := s.STATUS, INFO := s.INFO } = s

/-- From s to t the command succeeded and wrote x to RES: STATUS and INFO are 0, everything else is as it was. -/
def WroteRes (s t : State) (x : BitVec 64) : Prop :=
  t.RES = x ∧ t.STATUS = 0 ∧ t.INFO = 0 ∧ { t with RES := s.RES, STATUS := s.STATUS, INFO := s.INFO } = s

/-- From s to t the command succeeded, stored the bytes ys to BUF from addr on and wrote their number to RES: byte k of ys is
at addr + k, every other byte of BUF reads as before, STATUS and INFO are 0, everything else is as it was. -/
def StoredBytes (s t : State) (addr : Nat) (ys : List Byte) : Prop :=
  t.RES = BitVec.ofNat 64 ys.length ∧ t.STATUS = 0 ∧ t.INFO = 0 ∧
    (∀ k, k < ys.length → t.BUF.read? (addr + k) = ys[k]?) ∧
    (∀ a, a < addr ∨ addr + ys.length ≤ a → t.BUF.read? a = s.BUF.read? a) ∧
    { t with BUF := s.BUF, RES := s.RES, STATUS := s.STATUS, INFO := s.INFO } = s

/-- From s to t the command ended in the error e: STATUS and INFO are written and nothing else (R243). -/
def Erred (s t : State) (e : CmdError) (info : BitVec 32) : Prop := t = { s with STATUS := e.code, INFO := info }

/-- From s to t the command ended in the fault f: FAULT and FINFO are written and nothing else (R244). -/
def Faulted (s t : State) (f : BlockFault) (info : BitVec 32) : Prop := t = { s with FAULT := f.code, FINFO := info }

/-- The command has finished with a next state that has the property P. -/
def EndsIn (r : Result) (P : State → Prop) : Prop := ∃ t, r = .next t ∧ P t

/-- The errors a command can end in (40_bitvector.md R120, 60_exceptions.md R258). -/
def mayRaise : Instr → CmdError → Bool
  | .bvConstruct .., e => e == .invalidBit
  | .bvXor .., e => e == .lengthMismatch
  | .trvInit .., e => e == .invalidKeyLength || e == .invalidIvLength
  | .trvEnc .., e => e == .notWarmedUp || e == .lengthMismatch
  | .trvDec .., e => e == .notWarmedUp || e == .lengthMismatch
  | _, _ => false

/-- The faults a well-formed command can end in (40_bitvector.md R120, 60_exceptions.md R258); a malformed word faults
IllegalCommand before it is a command. -/
def mayFault : Instr → BlockFault → Bool
  | .bvConstruct .., f => f == .bufferRange || f == .capacityOverflow
  | .bvGet .., f => f == .indexRange
  | .bvSet .., f => f == .indexRange
  | .bvInsert .., f => f == .indexRange || f == .capacityOverflow
  | .bvAppend .., f => f == .capacityOverflow
  | .bvShl .., f => f == .capacityOverflow
  | .bvShr .., f => f == .shiftRange
  | .bvPack .., f => f == .bufferRange
  | .bvStore .., f => f == .bufferRange
  | .desSched, f => f == .engineNotInitialized
  | .desEnc .., f => f == .engineNotInitialized
  | .desDec .., f => f == .engineNotInitialized
  | .trvWarmup, f => f == .engineNotInitialized || f == .capacityOverflow
  | .trvGen .., f => f == .engineNotInitialized || f == .capacityOverflow
  | .trvEnc .., f => f == .engineNotInitialized
  | .trvDec .., f => f == .engineNotInitialized
  | .trvKs .., f => f == .engineNotInitialized
  | _, _ => false

/-- The commands that write RES when they succeed (10_state.md R26). -/
def writesRes : Instr → Bool
  | .bvGet .. => true
  | .bvLen .. => true
  | .bvPack .. => true
  | .bvStore .. => true
  | .desEnc .. => true
  | .desDec .. => true
  | _ => false

/-- The commands that store to BUF (20_memory.md R51). -/
def writesBuf : Instr → Bool
  | .bvPack .. => true
  | .bvStore .. => true
  | _ => false

/-- The BitVector register a command may write (10_state.md R20), if any. -/
def destReg : Instr → Option BReg
  | .bvConstruct rd _ _ => some rd
  | .bvSet rd _ _ => some rd
  | .bvInsert rd _ _ => some rd
  | .bvAppend rd _ => some rd
  | .bvShl rd _ => some rd
  | .bvShr rd _ => some rd
  | .bvRev rd _ => some rd
  | .bvRevi rd => some rd
  | .bvXor rd _ _ => some rd
  | .trvEnc rd _ => some rd
  | .trvDec rd _ => some rd
  | .trvKs rd => some rd
  | _ => none

/-- A command of the DESU (30_encoding.md R73). -/
def isDes : Instr → Bool
  | .desLoadKey .. => true
  | .desSched => true
  | .desEnc .. => true
  | .desDec .. => true
  | _ => false

/-- A command that may change the stream engine's s, count, ks or trv_valid (10_state.md R20). -/
def clocksStream : Instr → Bool
  | .trvInit .. => true
  | .trvWarmup => true
  | .trvGen .. => true
  | _ => false

/-- The values of 10_state.md R33: every register, flag and engine state cleared, no byte of BUF has a value. -/
structure AfterReset (t : State) : Prop where
  registers : ∀ r, t.readB r = []
  desKey : t.desKey = 0
  subkeys : ∀ k ∈ t.K.toList, k = 0
  desScheduled : t.desScheduled = false
  desValid : t.desValid = false
  sreg : t.sreg = 0
  count : t.count = 0
  ks : t.ks = []
  trvValid : t.trvValid = false
  report : t.STATUS = 0 ∧ t.INFO = 0 ∧ t.RES = 0
  faultReport : t.FAULT = 0 ∧ t.FINFO = 0
  buf : ∀ a, t.BUF.read? a = none

/-- The invariant: what the rules say of every state that the block reaches from reset. -/
structure State.Inv (s : State) : Prop where
  /-- The parameters are in the ranges of 00_scope.md R4. -/
  params : s.cfg.wf
  /-- BUF keeps its canonical form. -/
  bufCanonical : Memory.wf s.BUF
  /-- Every byte of BUF that has a value is at an address below BUF_BYTES (20_memory.md R50). -/
  bufInside : ∀ c ∈ s.BUF, c.1 < s.cfg.bufBytes
  /-- Every BitVector register fits its capacity (10_state.md R21). -/
  regsFit : ∀ r, (s.readB r).length ≤ s.cfg.bvCap
  /-- The keystream buffer fits its capacity (43_trivium_engine.md R198). -/
  ksFits : s.ks.length ≤ s.cfg.bvCap
  /-- len(ks) = max(0, count - 1152) at every moment (43_trivium_engine.md R203). -/
  ksLength : s.ks.length = s.count - warmupThreshold
  /-- Bits 63:48 of every subkey register are 0 (10_state.md R28). -/
  subkeysNarrow : ∀ k ∈ s.K.toList, k.extractLsb' 48 16 = 0
  /-- While des_scheduled = 1, K = schedule(des_key) (42_des_engine.md R171). -/
  scheduleFresh : s.desScheduled = true → s.K = schedule s.desKey
  /-- Subkeys are computed only for a loaded key (42_des_engine.md R171). -/
  scheduledLoaded : s.desScheduled = true → s.desValid = true
  /-- STATUS holds 0x00 or an error code, 0x01 to 0x05 (10_state.md R25). -/
  statusCode : s.STATUS.toNat ≤ 5
  /-- INFO is 0 on success (10_state.md R25). -/
  infoOnSuccess : s.STATUS = 0 → s.INFO = 0
  /-- FAULT holds 0x00 or a fault code (10_state.md R27). -/
  faultCode : s.FAULT = 0 ∨ ∃ f : BlockFault, s.FAULT = f.code
  /-- Without a fault FINFO is 0 (10_state.md R27). -/
  finfoWithoutFault : s.FAULT = 0 → s.FINFO = 0

end Sys2Proof.Machine
end

