-- ==== Sys2Proof/Certificates/Slice0/Obligations.lean ====
section
/-! DEFINITION. The statements about RCA-CORE for the provers, each with the rule of spec/ it rests on. In every statement
`s.FAULT = 0` says that the block is not halted (10_state.md R24). -/

open Sys2Proof Sys2Proof.Machine

/-! ### Encoding (30_encoding.md) -/

/-- Encoding a well-formed command and decoding the word gives the command back, whatever its operands (R70, R73). -/
def Obligations.DecodeInvertsEncode : Prop :=
  ∀ i : Instr, i.wellFormed = true → decode (encode i) = .ok i

/-- A word that decodes is the encoding of exactly the command it decodes to, and that command is well-formed (R76). -/
def Obligations.DecodedWordIsTheEncoding : Prop :=
  ∀ (w : CmdWord) (i : Instr), decode w = .ok i → i.wellFormed = true ∧ encode i = w

/-- R73: for every row of the opcode table, `cmd and mask = match` holds for exactly the words that decode to that row's
command. -/
def Obligations.TableRowFitsItsWords : Prop :=
  ∀ row ∈ opcodeTable, ∀ w : CmdWord,
    row.fits w = true ↔ ∃ i, decode w = .ok i ∧ i.mnemonic = row.mnemonic

/-- The 233 reserved opcode values (R76). -/
def IsReservedOp (op : Nat) : Prop :=
  op ≤ 0x0F ∨ (0x1D ≤ op ∧ op ≤ 0x1F) ∨ (0x24 ≤ op ∧ op ≤ 0x2F) ∨ 0x36 ≤ op

/-- R75, R76: a word with a reserved `op`, and a word that fits no row because a field its command does not use is not 0,
does nothing but fault IllegalCommand with FINFO = cmd[127:96]. That the word stands in `port` is the model's
(notes/assumptions/1.md). -/
def Obligations.IllegalWordsFault : Prop :=
  ∀ (s : State) (w : CmdWord) (rest : List HostAction), s.FAULT = 0 → s.port = .command w :: rest →
    (IsReservedOp (w.extractLsb' 120 8).toNat ∨ ∀ row ∈ opcodeTable, row.fits w = false) →
    EndsIn (step s) fun t => Faulted { s with port := rest } t .illegalCommand (w.extractLsb' 96 32)

/-- Words written out in 95_test_vectors.md V70 to V80 decode to the commands they stand for, or to none. -/
def Obligations.SampleWordsDecode : Prop :=
  decode 0x10200000000000040000000000000040 = .ok (.bvConstruct 2 4 0x40) ∧
  decode 0x12200001000000000000000000000000 = .ok (.bvSet 2 0 true) ∧
  decode 0x13200001000000100000000000000000 = .ok (.bvInsert 2 16 true) ∧
  decode 0x19201000000000000000000000000000 = .ok (.bvXor 2 0 1) ∧
  decode 0x1A030000000000000000000000000200 = .ok (.bvPack 3 0x200) ∧
  decode 0x2000000000000000133457799BBCDFF1 = .ok (.desLoadKey 0x133457799BBCDFF1) ∧
  decode 0x30001000000000000000000000000000 = .ok (.trvInit 0 1) ∧
  decode 0x32000000000000280000000000000000 = .ok (.trvGen 40) ∧
  decode 0x33420000000000000000000000000000 = .ok (.trvEnc 4 2) ∧
  decode 0x1D000000000000000000000000000000 = .error .reservedOpcode ∧
  decode 0x21000000000000000000000000000001 = .error .unusedFieldNotZero

/-! ### The step, faults and reset -/

/-- When the host's next action is a word that decodes to i and the block is not halted, the step is exec of i in the state
from whose port the word has been taken; the step adds nothing else (R83). -/
def Obligations.StepRunsTheDecodedCommand : Prop :=
  ∀ (s : State) (w : CmdWord) (rest : List HostAction) (i : Instr),
    s.FAULT = 0 → s.port = .command w :: rest → decode w = .ok i → step s = exec i { s with port := rest }

/-- R245: while the block is halted every command word, legal or not, is ignored and every command's meaning changes nothing;
the host can still write BUF; no step but a reset changes FAULT or FINFO; and a reset loses all state. That the host's actions
stand in `port` is the model's (notes/assumptions/1.md). -/
def Obligations.HaltedBlockIgnoresCommands : Prop :=
  ∀ s : State, s.FAULT ≠ 0 →
    (∀ w rest, s.port = .command w :: rest → step s = .next { s with port := rest }) ∧
    (∀ i, exec i s = .next s) ∧
    (∀ a y rest, s.port = .writeBuf a y :: rest → a < s.cfg.bufBytes →
      EndsIn (step s) fun t => t.BUF.read? a = some y ∧ (∀ a', a' ≠ a → t.BUF.read? a' = s.BUF.read? a') ∧
        { t with BUF := s.BUF } = { s with port := rest }) ∧
    (∀ t, step s = .next t → (∀ rest, s.port ≠ .reset :: rest) → t.FAULT = s.FAULT ∧ t.FINFO = s.FINFO) ∧
    ∀ rest, s.port = .reset :: rest → EndsIn (step s) AfterReset

/-- R271: no step but a reset clears FAULT or FINFO (a fault's record stays), des_valid or trv_valid. -/
def Obligations.OnlyResetClearsFaultAndValidFlags : Prop :=
  ∀ s t : State, step s = .next t → (∀ rest, s.port ≠ .reset :: rest) →
    (s.FAULT ≠ 0 → t.FAULT = s.FAULT ∧ t.FINFO = s.FINFO) ∧
    (s.desValid = true → t.desValid = true) ∧ (s.trvValid = true → t.trvValid = true)

/-- R270, R33: a reset, in any state, halted or not, gives every piece of state its reset value, and so is the state the
machine starts in. -/
def Obligations.ResetClearsEveryPieceOfState : Prop :=
  AfterReset State.reset ∧
  ∀ (s : State) (rest : List HostAction), s.port = .reset :: rest → EndsIn (step s) AfterReset

/-- A host write between two commands changes exactly one byte of BUF; an address that BUF does not have stops the model
(R32, R54; notes/assumptions/8.md). -/
def Obligations.HostWriteChangesOneByte : Prop :=
  ∀ (s : State) (a : Nat) (y : Byte) (rest : List HostAction), s.port = .writeBuf a y :: rest →
    (a < s.cfg.bufBytes → EndsIn (step s) fun t => t.BUF.read? a = some y ∧
      (∀ a', a' ≠ a → t.BUF.read? a' = s.BUF.read? a') ∧ { t with BUF := s.BUF } = { s with port := rest }) ∧
    (s.cfg.bufBytes ≤ a → step s = .fault (.hostWriteOutsideBuf a))

/-! ### How commands end, and what they leave unchanged -/

/-- R120, R258: every command answers a next state; a command that is not ignored ends in an error its row of the tables
lists (only STATUS and INFO change), in a fault its row lists (only FAULT and FINFO change), or in success. -/
def Obligations.CommandsRaiseOnlyWhatTheyMay : Prop :=
  ∀ (i : Instr) (s : State), EndsIn (exec i s) fun t =>
    (s.FAULT ≠ 0 ∧ t = s) ∨
    (s.FAULT = 0 ∧
      ((∃ e info, mayRaise i e = true ∧ Erred s t e info) ∨
       (∃ f info, mayFault i f = true ∧ Faulted s t f info) ∨
       (t.STATUS = 0 ∧ t.INFO = 0 ∧ t.FAULT = 0 ∧ t.FINFO = s.FINFO)))

/-- The register file's frame (R20, R118): no command changes a BitVector register other than its destination. -/
def Obligations.OnlyTheDestinationRegisterChanges : Prop :=
  ∀ (i : Instr) (s t : State) (r : BReg), exec i s = .next t → destReg i ≠ some r → t.readB r = s.readB r

/-- BUF's frame (R51, R54): a command other than BV.PACK and BV.STORE changes no byte of BUF, and those two change none
outside the bytes they store, ceil(len/8) or len bytes from the command's address on. -/
def Obligations.OnlyStoresChangeMemory : Prop :=
  ∀ (i : Instr) (s t : State), exec i s = .next t →
    match i with
    | .bvPack ra addr =>
      ∀ a, a < addr ∨ addr + ((s.readB ra).length + 7) / 8 ≤ a → t.BUF.read? a = s.BUF.read? a
    | .bvStore ra addr => ∀ a, a < addr ∨ addr + (s.readB ra).length ≤ a → t.BUF.read? a = s.BUF.read? a
    | _ => ∀ a, t.BUF.read? a = s.BUF.read? a

/-- RES's frame (R26): a command that is not one of BV.GET, BV.LEN, BV.PACK, BV.STORE, DES.ENC and DES.DEC leaves RES
unchanged, and so does every command that ends in an error or a fault. -/
def Obligations.ResChangesOnlyByResultCommands : Prop :=
  ∀ (i : Instr) (s t : State), exec i s = .next t →
    writesRes i = false ∨ t.STATUS ≠ 0 ∨ t.FAULT ≠ 0 → t.RES = s.RES

/-- The engines' frame (R20, R255): only a DESU command changes the DESU's state, only TRV.INIT, TRV.WARMUP and TRV.GEN change
the TRVU's, and no command changes the parameters or the host's remaining actions. -/
def Obligations.EnginesDoNotInteract : Prop :=
  ∀ (i : Instr) (s t : State), exec i s = .next t →
    (isDes i = false →
      t.desKey = s.desKey ∧ t.K = s.K ∧ t.desScheduled = s.desScheduled ∧ t.desValid = s.desValid) ∧
    (clocksStream i = false →
      t.sreg = s.sreg ∧ t.count = s.count ∧ t.ks = s.ks ∧ t.trvValid = s.trvValid) ∧
    t.cfg = s.cfg ∧ t.port = s.port ∧ t.resets = s.resets

/-- No command but DES.ENC and DES.DEC lets the host or a BitVector register see anything of the key or the subkeys, and no
command at all shows the host anything of the stream state in that step (R32). -/
def Obligations.SecretsAreNotReadBack : Prop :=
  ∀ (i : Instr) (s t : State), exec i s = .next t →
    (∀ (key : BitVec 64) (K : Vector (BitVec 64) 16), (∀ block, i ≠ .desEnc block ∧ i ≠ .desDec block) →
      EndsIn (exec i { s with desKey := key, K := K }) fun t' => t'.hostView = t.hostView ∧ t'.b = t.b) ∧
    (∀ sreg : BitVec 288,
      EndsIn (exec i { s with sreg := sreg }) fun t' => t'.hostView = t.hostView ∧ t'.b = t.b)

/-! ### The invariant -/

/-- Every step keeps the invariant of reachable states, from every state that has it. -/
def Obligations.StepKeepsTheInvariant : Prop :=
  ∀ s t : State, s.Inv → step s = .next t → t.Inv

/-- The state after reset has the invariant of reachable states. -/
def Obligations.ResetMeetsTheInvariant : Prop := State.reset.Inv

/-! ### BVU (40_bitvector.md) -/

/-- R102, for bytes that have a value: BufferRange before CapacityOverflow before InvalidBit, which reports the first bad byte
in ascending address order; otherwise b[rd] is the n bits. -/
def Obligations.ConstructReadsWireBits : Prop :=
  ∀ (rd : BReg) (n addr : Nat) (s : State), s.FAULT = 0 →
    (s.cfg.bufBytes < addr + n →
      EndsIn (exec (.bvConstruct rd n addr) s) fun t => Faulted s t .bufferRange (BitVec.ofNat 32 addr)) ∧
    (addr + n ≤ s.cfg.bufBytes → s.cfg.bvCap < n →
      EndsIn (exec (.bvConstruct rd n addr) s) fun t => Faulted s t .capacityOverflow 0) ∧
    (∀ ys : List Byte, ys.length = n → addr + n ≤ s.cfg.bufBytes → n ≤ s.cfg.bvCap →
      (∀ k : Nat, k < n → s.BUF.read? (addr + k) = ys[k]?) →
      (∀ (k : Nat) (bad : Byte), ys[k]? = some bad → bad ≠ 0 → bad ≠ 1 →
        (∀ (j : Nat) (y : Byte), j < k → ys[j]? = some y → y = 0 ∨ y = 1) →
        EndsIn (exec (.bvConstruct rd n addr) s) fun t => Erred s t .invalidBit (bad.setWidth 32)) ∧
      ((∀ y ∈ ys, y = 0 ∨ y = 1) →
        EndsIn (exec (.bvConstruct rd n addr) s) fun t => ∃ v : BitSeq, WroteReg s t rd v ∧ v.length = n ∧
          ∀ (k : Nat) (y : Byte), ys[k]? = some y → v[k]? = some (y == 1)))

/-- BV.CONSTRUCT from any range inside BUF, also where bytes have no value: some value of each of those bytes (nothing says
which; notes/assumptions/4.md, 93_implementation_defined.md U9 `any value`) decides, with the written bytes, between success
and InvalidBit. -/
def Obligations.ConstructTakesAnyValueForUnwrittenBytes : Prop :=
  ∀ (rd : BReg) (n addr : Nat) (s : State), s.FAULT = 0 → addr + n ≤ s.cfg.bufBytes → n ≤ s.cfg.bvCap →
    ∃ ys : List Byte, ys.length = n ∧
      (∀ (k : Nat) (y : Byte), k < n → s.BUF.read? (addr + k) = some y → ys[k]? = some y) ∧
      (((∀ y ∈ ys, y = 0 ∨ y = 1) ∧
          EndsIn (exec (.bvConstruct rd n addr) s) fun t => WroteReg s t rd (ys.map fun y => y == 1)) ∨
        ∃ (k : Nat) (bad : Byte), ys[k]? = some bad ∧ bad ≠ 0 ∧ bad ≠ 1 ∧
          (∀ (j : Nat) (y : Byte), j < k → ys[j]? = some y → y = 0 ∨ y = 1) ∧
          EndsIn (exec (.bvConstruct rd n addr) s) fun t => Erred s t .invalidBit (bad.setWidth 32))

/-- R103: RES is bit i of b[ra], zero-extended; an index at or past the length faults IndexRange. -/
def Obligations.GetReadsOneBit : Prop :=
  ∀ (ra : BReg) (i : Nat) (s : State), s.FAULT = 0 →
    (∀ bit : Bit, (s.readB ra)[i]? = some bit →
      EndsIn (exec (.bvGet ra i) s) fun t => WroteRes s t (if bit then 1 else 0)) ∧
    ((s.readB ra).length ≤ i →
      EndsIn (exec (.bvGet ra i) s) fun t => Faulted s t .indexRange (BitVec.ofNat 32 i))

/-- R104: bit i of b[rd] is replaced, every other bit and the length stay; an index at or past the length faults. -/
def Obligations.SetReplacesOneBit : Prop :=
  ∀ (rd : BReg) (i : Nat) (bit : Bit) (s : State), s.FAULT = 0 →
    (i < (s.readB rd).length →
      EndsIn (exec (.bvSet rd i bit) s) fun t => ∃ v : BitSeq, WroteReg s t rd v ∧
        v.length = (s.readB rd).length ∧ v[i]? = some bit ∧ ∀ j : Nat, j ≠ i → v[j]? = (s.readB rd)[j]?) ∧
    ((s.readB rd).length ≤ i →
      EndsIn (exec (.bvSet rd i bit) s) fun t => Faulted s t .indexRange (BitVec.ofNat 32 i))

/-- R105: the elements from index i on move up by one and the bit is at i; an index past the length faults IndexRange, and
after that a length past BV_CAP faults CapacityOverflow. -/
def Obligations.InsertMovesTheTailUp : Prop :=
  ∀ (rd : BReg) (i : Nat) (bit : Bit) (s : State), s.FAULT = 0 →
    ((s.readB rd).length < i →
      EndsIn (exec (.bvInsert rd i bit) s) fun t => Faulted s t .indexRange (BitVec.ofNat 32 i)) ∧
    (i ≤ (s.readB rd).length → s.cfg.bvCap < (s.readB rd).length + 1 →
      EndsIn (exec (.bvInsert rd i bit) s) fun t => Faulted s t .capacityOverflow 0) ∧
    (i ≤ (s.readB rd).length → (s.readB rd).length + 1 ≤ s.cfg.bvCap →
      EndsIn (exec (.bvInsert rd i bit) s) fun t => ∃ v : BitSeq, WroteReg s t rd v ∧
        v.length = (s.readB rd).length + 1 ∧ v[i]? = some bit ∧
        (∀ j : Nat, j < i → v[j]? = (s.readB rd)[j]?) ∧ ∀ j : Nat, i ≤ j → v[j + 1]? = (s.readB rd)[j]?)

/-- R106: the new bit has index old length; a length past BV_CAP faults CapacityOverflow. -/
def Obligations.AppendAddsAfterTheTail : Prop :=
  ∀ (rd : BReg) (bit : Bit) (s : State), s.FAULT = 0 →
    ((s.readB rd).length + 1 ≤ s.cfg.bvCap →
      EndsIn (exec (.bvAppend rd bit) s) fun t => ∃ v : BitSeq, WroteReg s t rd v ∧
        v.length = (s.readB rd).length + 1 ∧ v[(s.readB rd).length]? = some bit ∧
        ∀ j : Nat, j < (s.readB rd).length → v[j]? = (s.readB rd)[j]?) ∧
    (s.cfg.bvCap < (s.readB rd).length + 1 →
      EndsIn (exec (.bvAppend rd bit) s) fun t => Faulted s t .capacityOverflow 0)

/-- R107: n zero bits are appended at the tail, no bit moves and none is lost, so the value read as a number with the head as
most significant bit is multiplied by 2^n; a length past BV_CAP faults. -/
def Obligations.ShiftLeftAppendsZeros : Prop :=
  ∀ (rd : BReg) (n : Nat) (s : State), s.FAULT = 0 →
    ((s.readB rd).length + n ≤ s.cfg.bvCap →
      EndsIn (exec (.bvShl rd n) s) fun t => ∃ v : BitSeq, WroteReg s t rd v ∧
        v.length = (s.readB rd).length + n ∧ (∀ j : Nat, j < (s.readB rd).length → v[j]? = (s.readB rd)[j]?) ∧
        (∀ j : Nat, (s.readB rd).length ≤ j → j < (s.readB rd).length + n → v[j]? = some false) ∧
        bitsToNat v = bitsToNat (s.readB rd) * 2 ^ n) ∧
    (s.cfg.bvCap < (s.readB rd).length + n →
      EndsIn (exec (.bvShl rd n) s) fun t => Faulted s t .capacityOverflow 0)

/-- R108: the length stays, new[j] = 0 for j < n and new[j] = old[j - n] for j >= n; n past the length faults ShiftRange. -/
def Obligations.ShiftRightKeepsTheLength : Prop :=
  ∀ (rd : BReg) (n : Nat) (s : State), s.FAULT = 0 →
    (n ≤ (s.readB rd).length →
      EndsIn (exec (.bvShr rd n) s) fun t => ∃ v : BitSeq, WroteReg s t rd v ∧
        v.length = (s.readB rd).length ∧ (∀ j : Nat, j < n → v[j]? = some false) ∧
        ∀ j : Nat, n ≤ j → j < (s.readB rd).length → v[j]? = (s.readB rd)[j - n]?) ∧
    ((s.readB rd).length < n →
      EndsIn (exec (.bvShr rd n) s) fun t => Faulted s t .shiftRange (BitVec.ofNat 32 n))

/-- v is the chunk reversal of u (R109): bit j of chunk k, which ends at min(8k + 8, len), stands j places after the head of
that chunk in the result, and the chunks after it in u stand before it. -/
def IsChunkReversal (u v : BitSeq) : Prop :=
  v.length = u.length ∧
    ∀ k j : Nat, j < 8 → 8 * k + j < u.length → v[u.length - min (8 * k + 8) u.length + j]? = u[8 * k + j]?

/-- R110, R111 with R109: BV.REV writes the chunk reversal of b[ra] and BV.REVI that of b[rd], with no error and no fault. -/
def Obligations.ReverseOrdersChunksBackwards : Prop :=
  ∀ (rd ra : BReg) (s : State), s.FAULT = 0 →
    (EndsIn (exec (.bvRev rd ra) s) fun t => ∃ v, WroteReg s t rd v ∧ IsChunkReversal (s.readB ra) v) ∧
    (EndsIn (exec (.bvRevi rd) s) fun t => ∃ v, WroteReg s t rd v ∧ IsChunkReversal (s.readB rd) v)

/-- R109: when the length is a multiple of 8, reversing twice gives the sequence back. -/
def Obligations.ReverseTwiceOnWholeChunks : Prop :=
  ∀ v : BitSeq, v.length % 8 = 0 → reverseChunks (reverseChunks v) = v

/-- R112: lengths that differ are the error LengthMismatch; otherwise element j of the result is the XOR of the elements j. -/
def Obligations.XorIsElementwise : Prop :=
  ∀ (rd ra rb : BReg) (s : State), s.FAULT = 0 →
    ((s.readB ra).length ≠ (s.readB rb).length →
      EndsIn (exec (.bvXor rd ra rb) s) fun t => Erred s t .lengthMismatch 0) ∧
    ((s.readB ra).length = (s.readB rb).length →
      EndsIn (exec (.bvXor rd ra rb) s) fun t => ∃ v : BitSeq, WroteReg s t rd v ∧
        v.length = (s.readB ra).length ∧
        ∀ (j : Nat) (x y : Bit), (s.readB ra)[j]? = some x → (s.readB rb)[j]? = some y → v[j]? = some (x ^^ y))

/-- R117: a register XORed with itself is all zeros of the same length; and XOR is commutative, associative and its own
inverse on equal lengths. -/
def Obligations.XorLaws : Prop :=
  (∀ (rd ra : BReg) (s : State), s.FAULT = 0 →
    EndsIn (exec (.bvXor rd ra ra) s) fun t => WroteReg s t rd (List.replicate (s.readB ra).length false)) ∧
  ∀ x y z : BitSeq, x.length = y.length → y.length = z.length →
    xorSeq x y = xorSeq y x ∧ xorSeq (xorSeq x y) z = xorSeq x (xorSeq y z) ∧ xorSeq (xorSeq x y) y = x

/-- ys is the packing of v (R113): ceil(len/8) bytes, byte k the r = min(8, len - 8k) bits from index 8k on as an r-bit
number with the first bit most significant, its upper 8 - r bits 0. -/
def IsPacking (v : BitSeq) (ys : List Byte) : Prop :=
  ys.length = (v.length + 7) / 8 ∧
    ∀ (k : Nat) (y : Byte), ys[k]? = some y →
      (∀ j : Nat, j < min 8 (v.length - 8 * k) → v[8 * k + j]? = some (y.getLsbD (min 8 (v.length - 8 * k) - 1 - j))) ∧
      ∀ m : Nat, min 8 (v.length - 8 * k) ≤ m → y.getLsbD m = false

/-- R113, R114: BV.PACK stores the packing of b[ra] at addr and puts the number of bytes in RES; a range that leaves BUF
faults BufferRange and writes nothing. -/
def Obligations.PackStoresBytesMsbFirst : Prop :=
  ∀ (ra : BReg) (addr : Nat) (s : State), s.FAULT = 0 →
    (addr + ((s.readB ra).length + 7) / 8 ≤ s.cfg.bufBytes →
      EndsIn (exec (.bvPack ra addr) s) fun t => ∃ ys, StoredBytes s t addr ys ∧ IsPacking (s.readB ra) ys) ∧
    (s.cfg.bufBytes < addr + ((s.readB ra).length + 7) / 8 →
      EndsIn (exec (.bvPack ra addr) s) fun t => Faulted s t .bufferRange (BitVec.ofNat 32 addr))

/-- R115: BV.STORE stores one byte 0x00 or 0x01 for each bit of b[ra] at addr and puts the length in RES; a range that leaves
BUF faults BufferRange and writes nothing; and BV.CONSTRUCT from the same bytes gives the value back. -/
def Obligations.StoreWritesWireBytes : Prop :=
  ∀ (ra : BReg) (addr : Nat) (s : State), s.FAULT = 0 →
    (addr + (s.readB ra).length ≤ s.cfg.bufBytes →
      EndsIn (exec (.bvStore ra addr) s) fun t =>
        (∃ ys : List Byte, StoredBytes s t addr ys ∧ ys.length = (s.readB ra).length ∧
          ∀ (j : Nat) (bit : Bit), (s.readB ra)[j]? = some bit → ys[j]? = some (if bit then 1 else 0)) ∧
        ((s.readB ra).length ≤ s.cfg.bvCap → ∀ rd,
          EndsIn (exec (.bvConstruct rd (s.readB ra).length addr) t) fun u => u.readB rd = s.readB ra)) ∧
    (s.cfg.bufBytes < addr + (s.readB ra).length →
      EndsIn (exec (.bvStore ra addr) s) fun t => Faulted s t .bufferRange (BitVec.ofNat 32 addr))

/-- R116: BV.LEN puts the length of b[ra] in RES and changes nothing else. -/
def Obligations.LenReadsTheLength : Prop :=
  ∀ (ra : BReg) (s : State), s.FAULT = 0 →
    EndsIn (exec (.bvLen ra) s) fun t => WroteRes s t (BitVec.ofNat 64 (s.readB ra).length)

/-- BV.SHR is not the inverse of BV.SHL: BV.SHL n and then BV.SHR n gives n zeros before the old sequence (R107, R277). -/
def Obligations.ShiftsAreNotInverse : Prop :=
  ∀ (rd : BReg) (n : Nat) (s : State), s.FAULT = 0 → (s.readB rd).length + n ≤ s.cfg.bvCap →
    EndsIn (exec (.bvShl rd n) s) fun t =>
      EndsIn (exec (.bvShr rd n) t) fun u => u.readB rd = List.replicate n false ++ s.readB rd

/-! ### DESU (41_des_tables.md, 42_des_engine.md) -/

/-- R140: with positions in 1 .. W, result bit n - j is bit W - t of the input for entry number j = 1 .. n of the table. -/
def Obligations.PermuteGathersBits : Prop :=
  ∀ (W : Nat) (table : List Nat) (x : BitVec W), (∀ t ∈ table, 1 ≤ t ∧ t ≤ W) →
    ∀ j t : Nat, 1 ≤ j → table[j - 1]? = some t →
      (permute table.length table x).getLsbD (table.length - j) = x.getLsbD (W - t)

/-- R142: FP is the inverse of IP, on both sides. -/
def Obligations.FinalPermutationInvertsInitial : Prop :=
  ∀ x : BitVec 64, permute 64 tableFP (permute 64 tableIP x) = x ∧ permute 64 tableIP (permute 64 tableFP x) = x

/-- R162: the result's bits 31 - 4(j-1) down to 28 - 4(j-1) are the entry of S_j at row 2*g[5] + g[0] and column g[4:1] of the
group g = x[47 - 6(j-1) : 42 - 6(j-1)]. Group, row order and entries are the spec's general knowledge (G7, G9;
notes/assumptions/9.md). -/
def Obligations.SboxUsesEachTable : Prop :=
  ∀ (x : BitVec 48) (j : Nat), 1 ≤ j → j ≤ 8 →
    let g := x.extractLsb' (42 - 6 * (j - 1)) 6
    ∃ table row entry, substitutionTables[j - 1]? = some table ∧
      table[2 * (g.extractLsb' 5 1).toNat + (g.extractLsb' 0 1).toNat]? = some row ∧
      row[(g.extractLsb' 1 4).toNat]? = some entry ∧
      ((sbox x).extractLsb' (28 - 4 * (j - 1)) 4).toNat = entry

/-- R164: from the pair after a round with subkey k the pair before it is (R' xor f(L', k), L'). -/
def Obligations.FeistelRoundInverts : Prop :=
  ∀ (L R : BitVec 32) (k : BitVec 64), ∀ L' R', feistelRound (L, R) k = (L', R') →
    L' = R ∧ R' = L ^^^ roundF R k ∧ (R' ^^^ roundF L' k, L') = (L, R)

/-- The 16 rotation amounts bring every 28-bit half back to its starting value (R148, R161). -/
def Obligations.RotationsReturnTheHalves : Prop :=
  ∀ x : BitVec 28, shiftAmounts.foldl rotl28 x = x

/-- R161: subkey i is PC-2 of the PC-1 halves rotated left by the sum of the first i + 1 rotation amounts, in a 64-bit register
with bits 63:48 zero. -/
def Obligations.ScheduleAccumulatesRotations : Prop :=
  ∀ (key : BitVec 64) (i : Nat), i < 16 →
    let cd := permute 56 tablePC1 key
    let n := (shiftAmounts.take (i + 1)).sum
    (schedule key)[i]? = some
      ((permute 48 tablePC2 ((cd.extractLsb' 28 28).rotateLeft n ++ (cd.extractLsb' 0 28).rotateLeft n)).setWidth 64)

/-- R173: two keys that differ only in key[56], key[48], ..., key[0] have the same subkeys and encrypt identically. PC-1 is the
spec's general knowledge (G3; notes/assumptions/9.md). -/
def Obligations.EightKeyBitsAreIgnored : Prop :=
  ∀ key key' : BitVec 64, (∀ n, n % 8 ≠ 0 → key.getLsbD n = key'.getLsbD n) →
    schedule key = schedule key' ∧ ∀ x, encryptBlock x (schedule key) = encryptBlock x (schedule key')

/-- R163, R165, R166: whatever the pairs of halves (L j, R j) are that begin with the halves of the IP output and obey the round
equation, with subkey j (encryption) or 15 - j (decryption) in round j, the block is FP of right || left after round 16. -/
def Obligations.BlockRunsSixteenRounds : Prop :=
  ∀ (x : BitVec 64) (K : Vector (BitVec 64) 16) (L R : Nat → BitVec 32),
    L 0 ++ R 0 = permute 64 tableIP x →
    ((∀ (j : Nat) (k : BitVec 64), K[j]? = some k →
        L (j + 1) = R j ∧
          R (j + 1) = L j ^^^ permute 32 tableP (sbox (permute 48 tableE (R j) ^^^ k.extractLsb' 0 48))) →
      encryptBlock x K = permute 64 tableFP (R 16 ++ L 16)) ∧
    ((∀ (j : Nat) (k : BitVec 64), j < 16 → K[15 - j]? = some k →
        L (j + 1) = R j ∧
          R (j + 1) = L j ^^^ permute 32 tableP (sbox (permute 48 tableE (R j) ^^^ k.extractLsb' 0 48))) →
      decryptBlock x K = permute 64 tableFP (R 16 ++ L 16))

/-- R172: decryption undoes encryption, and encryption decryption, under any subkeys; and so do the commands: DES.DEC of the
RES of a DES.ENC gives the block back. -/
def Obligations.BlockCipherRoundTrip : Prop :=
  (∀ (x : BitVec 64) (K : Vector (BitVec 64) 16),
    decryptBlock (encryptBlock x K) K = x ∧ encryptBlock (decryptBlock x K) K = x) ∧
  ∀ (block : BitVec 64) (s : State), s.FAULT = 0 → s.desValid = true →
    EndsIn (exec (.desEnc block) s) fun t => EndsIn (exec (.desDec t.RES) t) fun u => u.RES = block

/-- R167: DES.LOADKEY stores the key, clears K and des_scheduled, sets des_valid and changes nothing else. -/
def Obligations.LoadKeyMakesANewEngine : Prop :=
  ∀ (key : BitVec 64) (s : State), s.FAULT = 0 →
    EndsIn (exec (.desLoadKey key) s) fun t =>
      t.desKey = key ∧ (∀ k ∈ t.K.toList, k = 0) ∧ t.desScheduled = false ∧ t.desValid = true ∧
      t.STATUS = 0 ∧ t.INFO = 0 ∧
      { t with desKey := s.desKey, K := s.K, desScheduled := s.desScheduled, desValid := s.desValid,
               STATUS := s.STATUS, INFO := s.INFO } = s

/-- R168: without a loaded key DES.SCHED faults; with one it computes the subkeys when they are not computed, and changes
nothing but STATUS and INFO when they are. -/
def Obligations.SchedComputesOnce : Prop :=
  ∀ s : State, s.FAULT = 0 →
    (s.desValid = false → EndsIn (exec .desSched s) fun t => Faulted s t .engineNotInitialized 0x21) ∧
    (s.desValid = true → s.desScheduled = false → EndsIn (exec .desSched s) fun t =>
      t = { s with K := schedule s.desKey, desScheduled := true, STATUS := 0, INFO := 0 }) ∧
    (s.desValid = true → s.desScheduled = true → EndsIn (exec .desSched s) fun t =>
      t = { s with STATUS := 0, INFO := 0 })

/-- From s to t a DESU block command succeeded with the result x: the subkeys are the cached ones or, where none were
computed, those of the key; nothing but K, des_scheduled, RES, STATUS and INFO differs (R169, R170). -/
def BlockDone (s t : State) (x : Vector (BitVec 64) 16 → BitVec 64) : Prop :=
  t.K = (if s.desScheduled then s.K else schedule s.desKey) ∧ t.RES = x t.K ∧ t.desScheduled = true ∧
    t.STATUS = 0 ∧ t.INFO = 0 ∧
    { t with K := s.K, desScheduled := s.desScheduled, RES := s.RES, STATUS := s.STATUS, INFO := s.INFO } = s

/-- R169, R170: DES.ENC and DES.DEC make sure the schedule is computed and put the encrypted or decrypted block in RES;
without a loaded key they fault EngineNotInitialized with their op in FINFO. -/
def Obligations.BlockCommandsUseTheSchedule : Prop :=
  ∀ (block : BitVec 64) (s : State), s.FAULT = 0 →
    (s.desValid = false →
      (EndsIn (exec (.desEnc block) s) fun t => Faulted s t .engineNotInitialized 0x22) ∧
      EndsIn (exec (.desDec block) s) fun t => Faulted s t .engineNotInitialized 0x23) ∧
    (s.desValid = true →
      (EndsIn (exec (.desEnc block) s) fun t => BlockDone s t (encryptBlock block)) ∧
      EndsIn (exec (.desDec block) s) fun t => BlockDone s t (decryptBlock block))

/-- In every state with the invariant the subkey cache is invisible: RES is the block under schedule(des_key), whether the
subkeys were computed before or not, and a DES.SCHED in between changes nothing that the host sees (R31, R171). -/
def Obligations.SubkeyCacheIsInvisible : Prop :=
  ∀ (block : BitVec 64) (s : State), s.Inv → s.FAULT = 0 → s.desValid = true →
    EndsIn (exec (.desEnc block) s) fun t =>
      t.RES = encryptBlock block (schedule s.desKey) ∧
      (EndsIn (exec (.desDec block) s) fun u => u.RES = decryptBlock block (schedule s.desKey)) ∧
      EndsIn (exec .desSched s) fun u => EndsIn (exec (.desEnc block) u) fun v => v = t

/-! ### TRVU (43_trivium_engine.md) -/

/-- R191, R192: one update, bit by bit: the taps, the feedback bits, the rotation by one towards the higher index, the three
overwritten bits, the count and the prepended keystream bit. The positions are the spec's general knowledge (G8;
notes/assumptions/10.md). -/
def Obligations.UpdateIsTheTransition : Prop :=
  ∀ c : StreamCore,
    let s := fun i => c.sreg.getLsbD i
    let t1 := s 65 ^^ s 92
    let t2 := s 161 ^^ s 176
    let t3 := s 242 ^^ s 287
    (∀ i : Nat, i < 288 → c.update.sreg.getLsbD i =
      if i = 0 then t3 ^^ (s 285 && s 286) ^^ s 68
      else if i = 93 then t1 ^^ (s 90 && s 91) ^^ s 170
      else if i = 177 then t2 ^^ (s 174 && s 175) ^^ s 263
      else s (i - 1)) ∧
    c.update.count = c.count + 1 ∧
    c.update.ks = (if 1152 ≤ c.count then [t1 ^^ t2 ^^ t3] else []) ++ c.ks

/-- R199, R202: after n updates ks lists the bits of those updates that began with count >= 1152, newest first, before the old
bits. -/
def Obligations.KeystreamIsNewestFirst : Prop :=
  ∀ (c : StreamCore) (n : Nat),
    (StreamCore.updates n c).ks =
      (((List.range n).filter fun j => 1152 ≤ c.count + j).map
        fun j => keystreamBit (StreamCore.updates j c).sreg).reverse ++ c.ks ∧
    (StreamCore.updates n c).count = c.count + n

/-- R193: TRV.INIT loads key bit i to s[i] and IV bit i to s[93+i], sets s[285] to s[287] and clears every other bit, count and
ks; a key and then an IV that is not 80 bits long is an error that leaves the engine as it was. -/
def Obligations.InitLoadsKeyAndIv : Prop :=
  ∀ (ra rb : BReg) (s : State), s.FAULT = 0 →
    ((s.readB ra).length ≠ 80 → EndsIn (exec (.trvInit ra rb) s) fun t =>
      Erred s t .invalidKeyLength (BitVec.ofNat 32 (s.readB ra).length)) ∧
    ((s.readB ra).length = 80 → (s.readB rb).length ≠ 80 → EndsIn (exec (.trvInit ra rb) s) fun t =>
      Erred s t .invalidIvLength (BitVec.ofNat 32 (s.readB rb).length)) ∧
    ((s.readB ra).length = 80 → (s.readB rb).length = 80 → EndsIn (exec (.trvInit ra rb) s) fun t =>
      (∀ i : Nat, i < 80 → (s.readB ra)[i]? = some (t.sreg.getLsbD i)) ∧
      (∀ i : Nat, i < 80 → (s.readB rb)[i]? = some (t.sreg.getLsbD (93 + i))) ∧
      (∀ i : Nat, 285 ≤ i → i < 288 → t.sreg.getLsbD i = true) ∧
      (∀ i : Nat, (80 ≤ i ∧ i < 93) ∨ (173 ≤ i ∧ i < 285) → t.sreg.getLsbD i = false) ∧
      t.count = 0 ∧ t.ks = [] ∧ t.trvValid = true ∧ t.STATUS = 0 ∧ t.INFO = 0 ∧
      { t with sreg := s.sreg, count := s.count, ks := s.ks, trvValid := s.trvValid,
               STATUS := s.STATUS, INFO := s.INFO } = s)

/-- From s to t the TRVU ran n updates and nothing else but STATUS and INFO changed (R195). -/
def UpdatesDone (s t : State) (n : Nat) : Prop :=
  (⟨t.sreg, t.count, t.ks⟩ : StreamCore) = StreamCore.update^[n] ⟨s.sreg, s.count, s.ks⟩ ∧
    t.count = s.count + n ∧ t.STATUS = 0 ∧ t.INFO = 0 ∧
    { t with sreg := s.sreg, count := s.count, ks := s.ks, STATUS := s.STATUS, INFO := s.INFO } = s

/-- R194, R195: TRV.WARMUP runs exactly 1152 updates and TRV.GEN n, when the p = max(0, count + n - max(count, 1152)) new bits
fit the keystream buffer; otherwise they fault CapacityOverflow before the first update; without a TRV.INIT they fault
EngineNotInitialized with their op in FINFO. -/
def Obligations.GenerateRunsUpdates : Prop :=
  ∀ (n : Nat) (s : State), s.FAULT = 0 →
    (s.trvValid = false →
      (EndsIn (exec (.trvGen n) s) fun t => Faulted s t .engineNotInitialized 0x32) ∧
      EndsIn (exec .trvWarmup s) fun t => Faulted s t .engineNotInitialized 0x31) ∧
    (s.trvValid = true → ∀ p : Nat,
      ((p : Int) = max 0 ((s.count : Int) + n - max s.count 1152) →
        (s.cfg.bvCap < s.ks.length + p →
          EndsIn (exec (.trvGen n) s) fun t => Faulted s t .capacityOverflow 0) ∧
        (s.ks.length + p ≤ s.cfg.bvCap →
          EndsIn (exec (.trvGen n) s) fun t => UpdatesDone s t n ∧ t.ks.length = s.ks.length + p)) ∧
      ((p : Int) = max 0 ((s.count : Int) + 1152 - max s.count 1152) →
        (s.cfg.bvCap < s.ks.length + p →
          EndsIn (exec .trvWarmup s) fun t => Faulted s t .capacityOverflow 0) ∧
        (s.ks.length + p ≤ s.cfg.bvCap →
          EndsIn (exec .trvWarmup s) fun t => UpdatesDone s t 1152 ∧ t.ks.length = s.ks.length + p)))

/-- TRV.GEN a and then TRV.GEN b leaves the same state as TRV.GEN (a + b), absent a capacity fault (R195). -/
def Obligations.GenerationSplits : Prop :=
  ∀ (a b : Nat) (s : State), s.FAULT = 0 → s.trvValid = true →
    s.ks.length + producedBits s.count (a + b) ≤ s.cfg.bvCap →
    EndsIn (exec (.trvGen a) s) fun t => EndsIn (exec (.trvGen b) t) fun u =>
      EndsIn (exec (.trvGen (a + b)) s) fun v => v = u

/-- What R196 says of a command with this op: EngineNotInitialized, NotWarmedUp whatever the operand is, LengthMismatch, or
element j of b[rd] is b[ra][j] xor ks[j]. -/
def XorsTheKeystream (i : Instr) (op : BitVec 32) (rd ra : BReg) (s : State) : Prop :=
  (s.trvValid = false → EndsIn (exec i s) fun t => Faulted s t .engineNotInitialized op) ∧
  (s.trvValid = true → s.count < 1152 → EndsIn (exec i s) fun t => Erred s t .notWarmedUp 0) ∧
  (s.trvValid = true → 1152 ≤ s.count → (s.readB ra).length ≠ s.ks.length →
    EndsIn (exec i s) fun t => Erred s t .lengthMismatch 0) ∧
  (s.trvValid = true → 1152 ≤ s.count → (s.readB ra).length = s.ks.length →
    EndsIn (exec i s) fun t => ∃ v : BitSeq, WroteReg s t rd v ∧ v.length = s.ks.length ∧
      ∀ (j : Nat) (x k : Bit), (s.readB ra)[j]? = some x → s.ks[j]? = some k → v[j]? = some (x ^^ k))

/-- R196, R197: TRV.ENC and TRV.DEC are the same operation on b[ra] and the keystream buffer; only the op that
EngineNotInitialized reports differs. -/
def Obligations.StreamCommandsXorTheKeystream : Prop :=
  ∀ (rd ra : BReg) (s : State), s.FAULT = 0 →
    XorsTheKeystream (.trvEnc rd ra) 0x33 rd ra s ∧ XorsTheKeystream (.trvDec rd ra) 0x34 rd ra s

/-- R198: TRV.KS copies ks to b[rd] and leaves ks as it is; without a TRV.INIT it faults EngineNotInitialized. -/
def Obligations.KsCopiesTheBuffer : Prop :=
  ∀ (rd : BReg) (s : State), s.FAULT = 0 →
    (s.trvValid = false → EndsIn (exec (.trvKs rd) s) fun t => Faulted s t .engineNotInitialized 0x35) ∧
    (s.trvValid = true → EndsIn (exec (.trvKs rd) s) fun t => WroteReg s t rd s.ks)

/-- R200: after warm-up TRV.DEC of the TRV.ENC of an operand of the keystream's length gives the operand back; before warm-up
both fail with NotWarmedUp, whatever the operand is. -/
def Obligations.StreamCipherRoundTrip : Prop :=
  ∀ (rx ry ra : BReg) (s : State), s.FAULT = 0 → s.trvValid = true →
    (1152 ≤ s.count → (s.readB ra).length = s.ks.length →
      EndsIn (exec (.trvEnc rx ra) s) fun t => t.readB rx = xorSeq s.ks (s.readB ra) ∧
        EndsIn (exec (.trvDec ry rx) t) fun u => u.readB ry = s.readB ra) ∧
    (s.count < 1152 →
      (EndsIn (exec (.trvEnc rx ra) s) fun t => Erred s t .notWarmedUp 0) ∧
      EndsIn (exec (.trvDec rx ra) s) fun t => Erred s t .notWarmedUp 0)

/-! ### HexCodec, the host's side (44_hexcodec_host.md) -/

/-- R227: decoding the upper-case hex text of a byte string gives the byte string back. -/
def Obligations.HexTextRoundTrip : Prop :=
  ∀ bytes : List Byte, hexDecode (encodeUpper bytes) = bytes

/-- R222: bit 8k + j of `to_bits_msb` is bit 7 - j of byte k, and it is the inverse of packing on lengths that are multiples
of 8. -/
def Obligations.MsbExpansionIsUndoneByPacking : Prop :=
  (∀ bytes : List Byte, (toBitsMsb bytes).length = 8 * bytes.length ∧
    (∀ (k j : Nat) (y : Byte), bytes[k]? = some y → j < 8 → (toBitsMsb bytes)[8 * k + j]? = some (y.getLsbD (7 - j))) ∧
    pack (toBitsMsb bytes) = bytes) ∧
  ∀ v : BitSeq, v.length % 8 = 0 → toBitsMsb (pack v) = v

/-- R223: `to_bits_lsb` is the chunk reversal of `to_bits_msb`: the bytes in reverse order, each high bit first. -/
def Obligations.LsbExpansionIsChunkReversal : Prop :=
  ∀ bytes : List Byte, toBitsLsb bytes = reverseChunks (toBitsMsb bytes) ∧
    ∀ (k j : Nat) (y : Byte), bytes.reverse[k]? = some y → j < 8 → (toBitsLsb bytes)[8 * k + j]? = some (y.getLsbD (7 - j))

/-! ### Single step (60_exceptions.md R256) -/

/-- R256, "Every command is already a single step to the host": whatever the word and the state, halted or not, one step takes
exactly one command from the port and ends in a next state, and what that step leaves does not depend on what the host does
afterwards, so the host can look at the block after every command. That the host's actions stand in `port` is the model's
(notes/assumptions/1.md). -/
def Obligations.EveryCommandIsASingleStep : Prop :=
  ∀ (s : State) (w : CmdWord) (rest : List HostAction), s.port = .command w :: rest →
    EndsIn (step s) fun t => t.port = rest ∧
      ∀ rest', step { s with port := .command w :: rest' } = .next { t with port := rest' }
end

