-- ==== Sys2Proof/Laws/BitSeqs.lean ====
section
/-! SUPPORT. The laws of the sequence primitives (00_scope.md R9, R10; 40_bitvector.md R109, R112, R113). -/

namespace Sys2Proof.Machine

theorem slice_length (v : BitSeq) (i j : Nat) : (slice v i j).length = min j v.length - i := by
  simp [slice]

theorem slice_getElem? (v : BitSeq) (i j k : Nat) :
    (slice v i j)[k]? = if i + k < j then v[i + k]? else none := by
  simp [slice, List.getElem?_drop, List.getElem?_take]

@[simp] theorem slice_zero_length (v : BitSeq) : slice v 0 v.length = v := by simp [slice]

@[simp] theorem zeros_length (n : Nat) : (zeros n).length = n := by simp [zeros]

theorem zeros_getElem? (n k : Nat) : (zeros n)[k]? = if k < n then some false else none := by
  simp [zeros, List.getElem?_replicate]

/-- Rotating right keeps the length (R10). -/
theorem rotr_length (v : BitSeq) (n : Nat) : (rotr v n).length = v.length := by
  simp only [rotr, List.length_append, slice_length]; omega

/-- BV.SHR's rotate-then-zero is a shift towards the tail with zero fill (R108). -/
theorem shiftRight_eq (v : BitSeq) (n : Nat) (h : n ≤ v.length) :
    zeros n ++ slice (rotr v n) n v.length = zeros n ++ v.take (v.length - n) := by
  congr 1
  have hl : (slice v (v.length - n) v.length).length = n := by rw [slice_length]; omega
  have ht : (slice v 0 (v.length - n)) = v.take (v.length - n) := by simp [slice]
  have hr : (rotr v n).take v.length = rotr v n := List.take_of_length_le (by simp [rotr_length])
  show ((rotr v n).take v.length).drop n = _
  rw [hr]
  unfold rotr
  rw [ht]
  exact List.drop_left' hl

@[simp] theorem xorSeq_length (x y : BitSeq) : (xorSeq x y).length = min x.length y.length := by simp [xorSeq]

theorem xorSeq_getElem? (x y : BitSeq) (k : Nat) {a c : Bit} (hx : x[k]? = some a) (hy : y[k]? = some c) :
    (xorSeq x y)[k]? = some (a ^^ c) := by
  simp [xorSeq, List.getElem?_zipWith, hx, hy]

@[simp] theorem chunks_length (v : BitSeq) : (chunks v).length = numChunks v := by simp [chunks]

/-- Chunk k is the bits 8k to min(8k + 8, len) - 1 (R109). -/
theorem chunk_length (v : BitSeq) (k : Nat) : (chunk v k).length = min 8 (v.length - 8 * k) := by
  rw [chunk, slice_length]; omega

theorem chunk_getElem? (v : BitSeq) (k j : Nat) : (chunk v k)[j]? = if j < 8 then v[8 * k + j]? else none := by
  rw [chunk, slice_getElem?]
  by_cases h : j < 8
  · rw [if_pos (by omega), if_pos h]
  · rw [if_neg (by omega), if_neg h]

@[simp] theorem pack_length (v : BitSeq) : (pack v).length = (v.length + 7) / 8 := by
  simp [pack, numChunks]

theorem bitsToNat_append (g : BitSeq) (b : Bit) : bitsToNat (g ++ [b]) = 2 * bitsToNat g + b.toNat := by
  simp [bitsToNat]

/-- Bit i of the value of a bit group is the element i places before its last one (00_scope.md R8). -/
theorem bitsToNat_testBit (g : BitSeq) (i : Nat) :
    (bitsToNat g).testBit i = (g[g.length - 1 - i]?.getD false && decide (i < g.length)) := by
  induction g using List.reverseRecOn generalizing i with
  | nil => simp [bitsToNat]
  | append_singleton g b ih =>
    rw [bitsToNat_append]
    cases i with
    | zero => cases b <;> simp [Nat.testBit_zero, Nat.add_mod]
    | succ i =>
      have : (2 * bitsToNat g + b.toNat).testBit (i + 1) = (bitsToNat g).testBit i := by
        rw [Nat.testBit_succ]
        congr 1
        have := b.toNat_lt
        omega
      rw [this, ih]
      by_cases h : i < g.length
      · have h2 : (g ++ [b])[(g ++ [b]).length - 1 - (i + 1)]? = g[g.length - 1 - i]? := by
          rw [List.getElem?_append_left (by simp; omega)]
          congr 1; simp; omega
        rw [h2]; simp [h]
      · simp [h]

/-- Bit i of `byte_msb(g)`; a bit at or past the length of g is 0 (R8). -/
theorem byteMsb_getLsbD (g : BitSeq) (h : g.length ≤ 8) (i : Nat) :
    (byteMsb g).getLsbD i = (g[g.length - 1 - i]?.getD false && decide (i < g.length)) := by
  rw [byteMsb, BitVec.getLsbD_ofNat, bitsToNat_testBit]
  by_cases hi : i < g.length
  · simp [hi, show i < 8 by omega]
  · simp [hi]

/-- Byte k of `pack(v)` is the byte of chunk k (R113). -/
theorem pack_getElem? (v : BitSeq) (k : Nat) :
    (pack v)[k]? = if k < numChunks v then some (byteMsb (chunk v k)) else none := by
  by_cases h : k < numChunks v <;> simp [pack, chunks, h]

/-- The first m chunks, backwards, have as many bits as the first 8m bits of v. -/
theorem chunkPrefix_length (v : BitSeq) (m : Nat) :
    ((List.range m).map (chunk v)).reverse.flatten.length = min (8 * m) v.length := by
  induction m with
  | zero => simp
  | succ m ih =>
    simp only [List.range_succ, List.map_append, List.map_cons, List.map_nil, List.reverse_append,
      List.reverse_singleton, List.singleton_append, List.flatten_cons, List.length_append, ih, chunk_length]
    omega

/-- Where a bit of chunk k is in the first m chunks, backwards. -/
theorem chunkPrefix_getElem? (v : BitSeq) (m k j : Nat) (hk : k < m) (hj : j < 8) (h : 8 * k + j < v.length) :
    ((List.range m).map (chunk v)).reverse.flatten[min (8 * m) v.length - min (8 * k + 8) v.length + j]? =
      v[8 * k + j]? := by
  induction m with
  | zero => omega
  | succ m ih =>
    simp only [List.range_succ, List.map_append, List.map_cons, List.map_nil, List.reverse_append,
      List.reverse_singleton, List.singleton_append, List.flatten_cons]
    by_cases hkm : k = m
    · subst hkm
      rw [List.getElem?_append_left (by rw [chunk_length]; omega), chunk_getElem?,
        show min (8 * (k + 1)) v.length - min (8 * k + 8) v.length + j = j by omega, if_pos hj]
    · rw [List.getElem?_append_right (by rw [chunk_length]; omega), ← ih (by omega), chunk_length]
      congr 1
      omega

/-- Chunk reversal keeps the length (R109). -/
@[simp] theorem reverseChunks_length (v : BitSeq) : (reverseChunks v).length = v.length := by
  rw [reverseChunks, chunks, chunkPrefix_length, numChunks]; omega

/-- Bit j of chunk k of v keeps its place in its chunk, and the chunks after it come before it (R109). -/
theorem reverseChunks_getElem? (v : BitSeq) (k j : Nat) (hj : j < 8) (h : 8 * k + j < v.length) :
    (reverseChunks v)[v.length - min (8 * k + 8) v.length + j]? = v[8 * k + j]? := by
  rw [reverseChunks, chunks, ← chunkPrefix_getElem? v (numChunks v) k j (by rw [numChunks]; omega) hj h]
  congr 1
  rw [numChunks]; omega

end Sys2Proof.Machine
end

