-- ==== Sys2Proof/Laws/Des.lean ====
section
/-! SUPPORT. The laws of the DESU's value-level functions (41_des_tables.md R140, 42_des_engine.md R161, R162, R164). -/

namespace Sys2Proof.Machine

/-- The permute routine as the value of the gathered bits, first entry most significant (R140). -/
theorem permute_eq (n : Nat) (table : List Nat) {W : Nat} (x : BitVec W) :
    permute n table x = BitVec.ofNat n (bitsToNat (table.map fun t => x.getLsbD (W - t))) := by
  rw [permute, bitsToNat, List.foldl_map]

/-- One bit of a permuted value (R140). -/
theorem permute_getLsbD (n : Nat) (table : List Nat) {W : Nat} (x : BitVec W) (i : Nat) (hi : i < n)
    (ht : i < table.length) : (permute n table x).getLsbD i = x.getLsbD (W - table[table.length - 1 - i]) := by
  rw [permute_eq, BitVec.getLsbD_ofNat, bitsToNat_testBit]
  simp only [hi, decide_true, List.length_map, ht, Bool.and_true, Bool.true_and]
  rw [List.getElem?_eq_getElem (by rw [List.length_map]; omega)]
  simp

/-- One round (R164). -/
@[simp] theorem feistelRound_mk (L R : BitVec 32) (k : BitVec 64) :
    feistelRound (L, R) k = (R, L ^^^ roundF R k) := rfl

/-- Bits 63:48 of a subkey register are 0 (10_state.md R28). -/
theorem subkeyOf_narrow (C D : BitVec 28) : (subkeyOf C D).extractLsb' 48 16 = 0 := by
  unfold subkeyOf
  generalize permute 48 tablePC2 (C ++ D) = x
  apply BitVec.eq_of_getLsbD_eq
  intro i hi
  simp [BitVec.getLsbD_setWidth]

/-- The subkeys for any rotation amounts are subkeys of some halves. -/
theorem mem_subkeysFrom {amounts : List Nat} {C D : BitVec 28} {k : BitVec 64} (h : k ∈ subkeysFrom amounts C D) :
    ∃ C' D', k = subkeyOf C' D' := by
  induction amounts generalizing C D with
  | nil => simp [subkeysFrom] at h
  | cons n rest ih =>
    rcases List.mem_cons.1 h with h | h
    · exact ⟨_, _, h⟩
    · exact ih h

/-- The schedule as a list (R161). -/
theorem schedule_toList (key : BitVec 64) :
    (schedule key).toList = subkeysFrom shiftAmounts (keyHalfC key) (keyHalfD key) := by simp [schedule]

/-- The key schedule depends on the two PC-1 halves alone (R161). -/
theorem schedule_congr {key key' : BitVec 64} (h : permute 56 tablePC1 key = permute 56 tablePC1 key') :
    schedule key = schedule key' := by
  have hC : keyHalfC key = keyHalfC key' := congrArg (BitVec.extractLsb' 28 28) h
  have hD : keyHalfD key = keyHalfD key' := congrArg (BitVec.extractLsb' 0 28) h
  apply Vector.toList_inj.1
  rw [schedule_toList, schedule_toList, hC, hD]

end Sys2Proof.Machine
end

