-- ==== Sys2Proof/Laws/Encoding.lean ====
section
/-! SUPPORT. The laws of the command format (30_encoding.md R70): the fields of a word and the word of the fields are inverse
to each other, and masking a word masks its fields. -/

namespace Sys2Proof

/-- No field is dropped by writing the fields into a word (R70). -/
@[simp] theorem fieldsOf_wordOf (f : Fields) : fieldsOf (wordOf f) = f := by
  obtain ⟨op, rd, ra, rb, zero, bit, idx, data⟩ := f
  simp only [fieldsOf, wordOf, Fields.mk.injEq]
  refine ⟨?_, ?_, ?_, ?_, ?_, ?_, ?_, ?_⟩
  all_goals
    repeat (rw [BitVec.extractLsb'_append_eq_of_le (by decide)])
    first
      | exact BitVec.extractLsb'_append_eq_right
      | exact BitVec.extractLsb'_eq_self

/-- No bit of a word is outside its fields (R70). -/
@[simp] theorem wordOf_fieldsOf (w : CmdWord) : wordOf (fieldsOf w) = w := by
  simp only [fieldsOf, wordOf]
  repeat rw [BitVec.extractLsb'_append_extractLsb'_eq_extractLsb' (by decide)]
  exact BitVec.extractLsb'_eq_self

/-- Two words with the same fields are the same word. -/
theorem fieldsOf_injective {w w' : CmdWord} (h : fieldsOf w = fieldsOf w') : w = w' := by
  rw [← wordOf_fieldsOf w, h, wordOf_fieldsOf]

/-- Decoding the word of some fields is decoding the fields. -/
@[simp] theorem decode_wordOf (f : Fields) : decode (wordOf f) = decodeFields f := by
  rw [decode, fieldsOf_wordOf]

/-- The fields masked by another word's fields. -/
def Fields.masked (f m : Fields) : Fields where
  op := f.op &&& m.op
  rd := f.rd &&& m.rd
  ra := f.ra &&& m.ra
  rb := f.rb &&& m.rb
  zero := f.zero &&& m.zero
  bit := f.bit &&& m.bit
  idx := f.idx &&& m.idx
  data := f.data &&& m.data

/-- Masking a word masks each of its fields. -/
theorem fieldsOf_and (w m : CmdWord) : fieldsOf (w &&& m) = (fieldsOf w).masked (fieldsOf m) := by
  simp only [fieldsOf, Fields.masked, BitVec.extractLsb'_and]

@[simp] theorem regOf_regField (r : BReg) : regOf (regField r) = r := rfl

@[simp] theorem regField_regOf (f : BitVec 4) : regField (regOf f) = f := rfl

@[simp] theorem bitOf_bitField (b : Bit) : bitOf (bitField b) = b := by cases b <;> rfl

@[simp] theorem bitField_bitOf (f : BitVec 1) : bitField (bitOf f) = f := by
  revert f; decide

/-- Everything the check of the unused fields can answer (R75). -/
theorem Fields.checked_ok {f : Fields} {u : FieldUse} {i j : Instr} :
    f.checked u i = .ok j ↔ f.unusedZero u = true ∧ i = j := by
  unfold Fields.checked
  by_cases h : f.unusedZero u = true <;> simp [h]

/-- A well-formed index survives its 32-bit field. -/
theorem toNat_ofNat_idx {i : Nat} (h : fitsIdx i = true) : (BitVec.ofNat 32 i).toNat = i := by
  have : i < 2 ^ 32 := by simpa [fitsIdx] using h
  rw [BitVec.toNat_ofNat, Nat.mod_eq_of_lt this]

/-- A well-formed address survives the low half of the `data` field. -/
theorem addrOf_ofNat {a : Nat} (h : fitsAddr a = true) : addrOf (BitVec.ofNat 64 a) = a := by
  have : a < 2 ^ 32 := by simpa [fitsAddr] using h
  simp only [addrOf, BitVec.extractLsb'_toNat, BitVec.toNat_ofNat, Nat.shiftRight_zero]
  omega

/-- A well-formed address leaves the high half of the `data` field 0. -/
theorem addr_high_zero {a : Nat} (h : fitsAddr a = true) : (BitVec.ofNat 64 a).extractLsb' 32 32 = 0 := by
  have : a < 2 ^ 32 := by simpa [fitsAddr] using h
  apply BitVec.eq_of_toNat_eq
  simp only [BitVec.extractLsb'_toNat, BitVec.toNat_ofNat, Nat.shiftRight_eq_div_pow]
  rw [Nat.mod_eq_of_lt (by omega), Nat.div_eq_of_lt (by omega)]
  rfl

/-- The `idx` field of a word is a well-formed index. -/
theorem fitsIdx_toNat (x : BitVec 32) : fitsIdx x.toNat = true := decide_eq_true x.isLt

/-- The address of a `data` field is a well-formed address. -/
theorem fitsAddr_addrOf (d : BitVec 64) : fitsAddr (addrOf d) = true := decide_eq_true (BitVec.isLt _)

/-- A `data` field whose high half is 0 is the address in its low half. -/
theorem ofNat_addrOf {d : BitVec 64} (h : d.extractLsb' 32 32 = 0#32) : BitVec.ofNat 64 (addrOf d) = d := by
  have h2 := congrArg BitVec.toNat h
  simp only [BitVec.extractLsb'_toNat, Nat.shiftRight_eq_div_pow, BitVec.toNat_ofNat, Nat.zero_mod] at h2
  apply BitVec.eq_of_toNat_eq
  simp only [addrOf, BitVec.extractLsb'_toNat, BitVec.toNat_ofNat, Nat.shiftRight_zero]
  have := d.isLt
  omega

/-- Masking the high half of a `data` field to 0 says that the high half is 0 (R72, R73). -/
theorem data_high_masked (d : BitVec 64) :
    d &&& 18446744069414584320#64 = 0#64 ↔ d.extractLsb' 32 32 = 0#32 := by
  constructor
  · intro h
    have h2 := congrArg (BitVec.extractLsb' 32 32) h
    rw [BitVec.extractLsb'_and,
      show BitVec.extractLsb' 32 32 18446744069414584320#64 = BitVec.allOnes 32 by decide, BitVec.and_allOnes] at h2
    rw [h2]
    decide
  · intro h
    have hd : d = d.extractLsb' 32 32 ++ d.extractLsb' 0 32 := by
      rw [BitVec.extractLsb'_append_extractLsb'_eq_extractLsb' (by decide)]
      exact BitVec.extractLsb'_eq_self.symm
    rw [hd, h, show (18446744069414584320#64) = BitVec.allOnes 32 ++ 0#32 by decide, BitVec.and_append]
    simp

end Sys2Proof
end

