-- ==== Sys2Proof/Laws/Memory.lean ====
section
/-! SUPPORT. The laws of BUF (20_memory.md R54): a read after a write, and that every memory operation keeps the canonical
form. -/

namespace Sys2Proof.Machine

@[simp] theorem Memory.read?_nil (a : Nat) : Memory.read? [] a = none := rfl

/-- A read returns the last value written to that address, and a write leaves every other address alone. -/
theorem Memory.read?_write (m : Memory) (a : Nat) (y : Byte) (a' : Nat) :
    (m.write a y).read? a' = if a' = a then some y else m.read? a' := by
  induction m with
  | nil => simp [Memory.write, Memory.read?]
  | cons p rest ih =>
    obtain ⟨k, x⟩ := p
    simp only [Memory.write]
    by_cases h1 : a < k
    · simp [h1, Memory.read?]
    · by_cases h2 : a = k
      · subst h2; by_cases h3 : a' = a <;> simp [Memory.read?, h3]
      · by_cases h3 : a' = k
        · subst h3
          simp [h1, h2, Memory.read?, Ne.symm h2]
        · simp [h1, h2, Memory.read?, h3, ih]

/-- Which cells a write leaves in the list. -/
theorem Memory.mem_write {m : Memory} {a : Nat} {y : Byte} {c : Host.Cell} (h : c ∈ m.write a y) :
    c = (a, y) ∨ c ∈ m := by
  induction m with
  | nil => simp_all [Memory.write]
  | cons p rest ih =>
    obtain ⟨k, x⟩ := p
    simp only [Memory.write] at h
    split at h
    · simpa using h
    · split at h
      · rename_i h2
        subst h2
        rcases List.mem_cons.1 h with h | h
        · exact .inl h
        · exact .inr (List.mem_cons_of_mem _ h)
      · rcases List.mem_cons.1 h with h | h
        · exact .inr (h ▸ List.mem_cons_self)
        · rcases ih h with h | h
          · exact .inl h
          · exact .inr (List.mem_cons_of_mem _ h)

/-- A write keeps the canonical form. -/
theorem Memory.wf_write {m : Memory} (h : Memory.wf m) (a : Nat) (y : Byte) : Memory.wf (m.write a y) := by
  induction m with
  | nil => simp [Memory.write, Memory.wf]
  | cons p rest ih =>
    obtain ⟨k, x⟩ := p
    obtain ⟨hk, hrest⟩ := List.pairwise_cons.1 h
    simp only [Memory.write]
    split
    · rename_i hlt
      refine List.pairwise_cons.2 ⟨fun c hc => ?_, h⟩
      rcases List.mem_cons.1 hc with rfl | hc
      · exact hlt
      · exact Nat.lt_trans hlt (hk c hc)
    · split
      · exact List.pairwise_cons.2 ⟨hk, hrest⟩
      · rename_i h1 h2
        refine List.pairwise_cons.2 ⟨fun c hc => ?_, ih hrest⟩
        rcases Memory.mem_write hc with rfl | hc
        · show k < a
          omega
        · exact hk c hc

/-- What a run of writes leaves at each address. -/
theorem Memory.read?_writeBytes (m : Memory) (a : Nat) (ys : List Byte) (a' : Nat) :
    (m.writeBytes a ys).read? a' =
      if a ≤ a' ∧ a' < a + ys.length then ys[a' - a]? else m.read? a' := by
  induction ys generalizing m a with
  | nil => simp [Memory.writeBytes]
  | cons y ys ih =>
    simp only [Memory.writeBytes, ih, Memory.read?_write, List.length_cons]
    by_cases h1 : a' = a
    · subst h1; simp
    · by_cases h2 : a + 1 ≤ a' ∧ a' < a + 1 + ys.length
      · have h3 : a' - a = a' - (a + 1) + 1 := by omega
        have h4 : a ≤ a' ∧ a' < a + (ys.length + 1) := by omega
        rw [if_pos h2, if_pos h4, h3, List.getElem?_cons_succ]
      · have h4 : ¬(a ≤ a' ∧ a' < a + (ys.length + 1)) := by omega
        rw [if_neg h2, if_neg h4, if_neg h1]

/-- Which cells a run of writes leaves in the list. -/
theorem Memory.mem_writeBytes {m : Memory} {a : Nat} {ys : List Byte} {c : Host.Cell}
    (h : c ∈ m.writeBytes a ys) : (a ≤ c.1 ∧ c.1 < a + ys.length) ∨ c ∈ m := by
  induction ys generalizing m a with
  | nil => exact .inr h
  | cons y ys ih =>
    rcases ih h with h | h
    · left; simp only [List.length_cons]; omega
    · rcases Memory.mem_write h with rfl | h
      · left; simp
      · exact .inr h

/-- A run of writes keeps the canonical form. -/
theorem Memory.wf_writeBytes {m : Memory} (h : Memory.wf m) (a : Nat) (ys : List Byte) :
    Memory.wf (m.writeBytes a ys) := by
  induction ys generalizing m a with
  | nil => exact h
  | cons y ys ih => exact ih (Memory.wf_write h a y) (a + 1)

/-- The memory after reset has the canonical form. -/
theorem Memory.wf_reset : Memory.wf State.reset.BUF := List.Pairwise.nil

end Sys2Proof.Machine
end

