-- ==== Sys2Proof/Laws/State.lean ====
section
/-! SUPPORT. One lemma per field per update of State, each true by rfl, so that no later proof unfolds a record update. -/

namespace Sys2Proof.Machine

@[simp] theorem State.writeB_b (s : State) (r : BReg) (v : BitSeq) : (s.writeB r v).b = s.b.set r v := rfl
@[simp] theorem State.writeB_desKey (s : State) (r : BReg) (v : BitSeq) : (s.writeB r v).desKey = s.desKey := rfl
@[simp] theorem State.writeB_K (s : State) (r : BReg) (v : BitSeq) : (s.writeB r v).K = s.K := rfl
@[simp] theorem State.writeB_desScheduled (s : State) (r : BReg) (v : BitSeq) : (s.writeB r v).desScheduled = s.desScheduled := rfl
@[simp] theorem State.writeB_desValid (s : State) (r : BReg) (v : BitSeq) : (s.writeB r v).desValid = s.desValid := rfl
@[simp] theorem State.writeB_sreg (s : State) (r : BReg) (v : BitSeq) : (s.writeB r v).sreg = s.sreg := rfl
@[simp] theorem State.writeB_count (s : State) (r : BReg) (v : BitSeq) : (s.writeB r v).count = s.count := rfl
@[simp] theorem State.writeB_ks (s : State) (r : BReg) (v : BitSeq) : (s.writeB r v).ks = s.ks := rfl
@[simp] theorem State.writeB_trvValid (s : State) (r : BReg) (v : BitSeq) : (s.writeB r v).trvValid = s.trvValid := rfl
@[simp] theorem State.writeB_STATUS (s : State) (r : BReg) (v : BitSeq) : (s.writeB r v).STATUS = s.STATUS := rfl
@[simp] theorem State.writeB_INFO (s : State) (r : BReg) (v : BitSeq) : (s.writeB r v).INFO = s.INFO := rfl
@[simp] theorem State.writeB_RES (s : State) (r : BReg) (v : BitSeq) : (s.writeB r v).RES = s.RES := rfl
@[simp] theorem State.writeB_FAULT (s : State) (r : BReg) (v : BitSeq) : (s.writeB r v).FAULT = s.FAULT := rfl
@[simp] theorem State.writeB_FINFO (s : State) (r : BReg) (v : BitSeq) : (s.writeB r v).FINFO = s.FINFO := rfl
@[simp] theorem State.writeB_BUF (s : State) (r : BReg) (v : BitSeq) : (s.writeB r v).BUF = s.BUF := rfl
@[simp] theorem State.writeB_cfg (s : State) (r : BReg) (v : BitSeq) : (s.writeB r v).cfg = s.cfg := rfl
@[simp] theorem State.writeB_port (s : State) (r : BReg) (v : BitSeq) : (s.writeB r v).port = s.port := rfl
@[simp] theorem State.writeB_resets (s : State) (r : BReg) (v : BitSeq) : (s.writeB r v).resets = s.resets := rfl

@[simp] theorem State.writeRes_b (s : State) (x : BitVec 64) : (s.writeRes x).b = s.b := rfl
@[simp] theorem State.writeRes_desKey (s : State) (x : BitVec 64) : (s.writeRes x).desKey = s.desKey := rfl
@[simp] theorem State.writeRes_K (s : State) (x : BitVec 64) : (s.writeRes x).K = s.K := rfl
@[simp] theorem State.writeRes_desScheduled (s : State) (x : BitVec 64) : (s.writeRes x).desScheduled = s.desScheduled := rfl
@[simp] theorem State.writeRes_desValid (s : State) (x : BitVec 64) : (s.writeRes x).desValid = s.desValid := rfl
@[simp] theorem State.writeRes_sreg (s : State) (x : BitVec 64) : (s.writeRes x).sreg = s.sreg := rfl
@[simp] theorem State.writeRes_count (s : State) (x : BitVec 64) : (s.writeRes x).count = s.count := rfl
@[simp] theorem State.writeRes_ks (s : State) (x : BitVec 64) : (s.writeRes x).ks = s.ks := rfl
@[simp] theorem State.writeRes_trvValid (s : State) (x : BitVec 64) : (s.writeRes x).trvValid = s.trvValid := rfl
@[simp] theorem State.writeRes_STATUS (s : State) (x : BitVec 64) : (s.writeRes x).STATUS = s.STATUS := rfl
@[simp] theorem State.writeRes_INFO (s : State) (x : BitVec 64) : (s.writeRes x).INFO = s.INFO := rfl
@[simp] theorem State.writeRes_RES (s : State) (x : BitVec 64) : (s.writeRes x).RES = x := rfl
@[simp] theorem State.writeRes_FAULT (s : State) (x : BitVec 64) : (s.writeRes x).FAULT = s.FAULT := rfl
@[simp] theorem State.writeRes_FINFO (s : State) (x : BitVec 64) : (s.writeRes x).FINFO = s.FINFO := rfl
@[simp] theorem State.writeRes_BUF (s : State) (x : BitVec 64) : (s.writeRes x).BUF = s.BUF := rfl
@[simp] theorem State.writeRes_cfg (s : State) (x : BitVec 64) : (s.writeRes x).cfg = s.cfg := rfl
@[simp] theorem State.writeRes_port (s : State) (x : BitVec 64) : (s.writeRes x).port = s.port := rfl
@[simp] theorem State.writeRes_resets (s : State) (x : BitVec 64) : (s.writeRes x).resets = s.resets := rfl

@[simp] theorem State.memWrite_b (s : State) (a : Nat) (ys : List Byte) : (s.memWrite a ys).b = s.b := rfl
@[simp] theorem State.memWrite_desKey (s : State) (a : Nat) (ys : List Byte) : (s.memWrite a ys).desKey = s.desKey := rfl
@[simp] theorem State.memWrite_K (s : State) (a : Nat) (ys : List Byte) : (s.memWrite a ys).K = s.K := rfl
@[simp] theorem State.memWrite_desScheduled (s : State) (a : Nat) (ys : List Byte) : (s.memWrite a ys).desScheduled = s.desScheduled := rfl
@[simp] theorem State.memWrite_desValid (s : State) (a : Nat) (ys : List Byte) : (s.memWrite a ys).desValid = s.desValid := rfl
@[simp] theorem State.memWrite_sreg (s : State) (a : Nat) (ys : List Byte) : (s.memWrite a ys).sreg = s.sreg := rfl
@[simp] theorem State.memWrite_count (s : State) (a : Nat) (ys : List Byte) : (s.memWrite a ys).count = s.count := rfl
@[simp] theorem State.memWrite_ks (s : State) (a : Nat) (ys : List Byte) : (s.memWrite a ys).ks = s.ks := rfl
@[simp] theorem State.memWrite_trvValid (s : State) (a : Nat) (ys : List Byte) : (s.memWrite a ys).trvValid = s.trvValid := rfl
@[simp] theorem State.memWrite_STATUS (s : State) (a : Nat) (ys : List Byte) : (s.memWrite a ys).STATUS = s.STATUS := rfl
@[simp] theorem State.memWrite_INFO (s : State) (a : Nat) (ys : List Byte) : (s.memWrite a ys).INFO = s.INFO := rfl
@[simp] theorem State.memWrite_RES (s : State) (a : Nat) (ys : List Byte) : (s.memWrite a ys).RES = s.RES := rfl
@[simp] theorem State.memWrite_FAULT (s : State) (a : Nat) (ys : List Byte) : (s.memWrite a ys).FAULT = s.FAULT := rfl
@[simp] theorem State.memWrite_FINFO (s : State) (a : Nat) (ys : List Byte) : (s.memWrite a ys).FINFO = s.FINFO := rfl
@[simp] theorem State.memWrite_BUF (s : State) (a : Nat) (ys : List Byte) : (s.memWrite a ys).BUF = s.BUF.writeBytes a ys := rfl
@[simp] theorem State.memWrite_cfg (s : State) (a : Nat) (ys : List Byte) : (s.memWrite a ys).cfg = s.cfg := rfl
@[simp] theorem State.memWrite_port (s : State) (a : Nat) (ys : List Byte) : (s.memWrite a ys).port = s.port := rfl
@[simp] theorem State.memWrite_resets (s : State) (a : Nat) (ys : List Byte) : (s.memWrite a ys).resets = s.resets := rfl

@[simp] theorem State.withStream_b (s : State) (c : StreamCore) : (s.withStream c).b = s.b := rfl
@[simp] theorem State.withStream_desKey (s : State) (c : StreamCore) : (s.withStream c).desKey = s.desKey := rfl
@[simp] theorem State.withStream_K (s : State) (c : StreamCore) : (s.withStream c).K = s.K := rfl
@[simp] theorem State.withStream_desScheduled (s : State) (c : StreamCore) : (s.withStream c).desScheduled = s.desScheduled := rfl
@[simp] theorem State.withStream_desValid (s : State) (c : StreamCore) : (s.withStream c).desValid = s.desValid := rfl
@[simp] theorem State.withStream_sreg (s : State) (c : StreamCore) : (s.withStream c).sreg = c.sreg := rfl
@[simp] theorem State.withStream_count (s : State) (c : StreamCore) : (s.withStream c).count = c.count := rfl
@[simp] theorem State.withStream_ks (s : State) (c : StreamCore) : (s.withStream c).ks = c.ks := rfl
@[simp] theorem State.withStream_trvValid (s : State) (c : StreamCore) : (s.withStream c).trvValid = s.trvValid := rfl
@[simp] theorem State.withStream_STATUS (s : State) (c : StreamCore) : (s.withStream c).STATUS = s.STATUS := rfl
@[simp] theorem State.withStream_INFO (s : State) (c : StreamCore) : (s.withStream c).INFO = s.INFO := rfl
@[simp] theorem State.withStream_RES (s : State) (c : StreamCore) : (s.withStream c).RES = s.RES := rfl
@[simp] theorem State.withStream_FAULT (s : State) (c : StreamCore) : (s.withStream c).FAULT = s.FAULT := rfl
@[simp] theorem State.withStream_FINFO (s : State) (c : StreamCore) : (s.withStream c).FINFO = s.FINFO := rfl
@[simp] theorem State.withStream_BUF (s : State) (c : StreamCore) : (s.withStream c).BUF = s.BUF := rfl
@[simp] theorem State.withStream_cfg (s : State) (c : StreamCore) : (s.withStream c).cfg = s.cfg := rfl
@[simp] theorem State.withStream_port (s : State) (c : StreamCore) : (s.withStream c).port = s.port := rfl
@[simp] theorem State.withStream_resets (s : State) (c : StreamCore) : (s.withStream c).resets = s.resets := rfl

@[simp] theorem State.withCommand_b (s : State) (w : CmdWord) : (s.withCommand w).b = s.b := rfl
@[simp] theorem State.withCommand_desKey (s : State) (w : CmdWord) : (s.withCommand w).desKey = s.desKey := rfl
@[simp] theorem State.withCommand_K (s : State) (w : CmdWord) : (s.withCommand w).K = s.K := rfl
@[simp] theorem State.withCommand_desScheduled (s : State) (w : CmdWord) : (s.withCommand w).desScheduled = s.desScheduled := rfl
@[simp] theorem State.withCommand_desValid (s : State) (w : CmdWord) : (s.withCommand w).desValid = s.desValid := rfl
@[simp] theorem State.withCommand_sreg (s : State) (w : CmdWord) : (s.withCommand w).sreg = s.sreg := rfl
@[simp] theorem State.withCommand_count (s : State) (w : CmdWord) : (s.withCommand w).count = s.count := rfl
@[simp] theorem State.withCommand_ks (s : State) (w : CmdWord) : (s.withCommand w).ks = s.ks := rfl
@[simp] theorem State.withCommand_trvValid (s : State) (w : CmdWord) : (s.withCommand w).trvValid = s.trvValid := rfl
@[simp] theorem State.withCommand_STATUS (s : State) (w : CmdWord) : (s.withCommand w).STATUS = s.STATUS := rfl
@[simp] theorem State.withCommand_INFO (s : State) (w : CmdWord) : (s.withCommand w).INFO = s.INFO := rfl
@[simp] theorem State.withCommand_RES (s : State) (w : CmdWord) : (s.withCommand w).RES = s.RES := rfl
@[simp] theorem State.withCommand_FAULT (s : State) (w : CmdWord) : (s.withCommand w).FAULT = s.FAULT := rfl
@[simp] theorem State.withCommand_FINFO (s : State) (w : CmdWord) : (s.withCommand w).FINFO = s.FINFO := rfl
@[simp] theorem State.withCommand_BUF (s : State) (w : CmdWord) : (s.withCommand w).BUF = s.BUF := rfl
@[simp] theorem State.withCommand_cfg (s : State) (w : CmdWord) : (s.withCommand w).cfg = s.cfg := rfl
@[simp] theorem State.withCommand_port (s : State) (w : CmdWord) : (s.withCommand w).port = .command w :: s.port := rfl
@[simp] theorem State.withCommand_resets (s : State) (w : CmdWord) : (s.withCommand w).resets = s.resets := rfl

@[simp] theorem State.applyReset_b (s : State) : s.applyReset.b = Vector.replicate 16 [] := rfl
@[simp] theorem State.applyReset_desKey (s : State) : s.applyReset.desKey = 0 := rfl
@[simp] theorem State.applyReset_K (s : State) : s.applyReset.K = Vector.replicate 16 0 := rfl
@[simp] theorem State.applyReset_desScheduled (s : State) : s.applyReset.desScheduled = false := rfl
@[simp] theorem State.applyReset_desValid (s : State) : s.applyReset.desValid = false := rfl
@[simp] theorem State.applyReset_sreg (s : State) : s.applyReset.sreg = 0 := rfl
@[simp] theorem State.applyReset_count (s : State) : s.applyReset.count = 0 := rfl
@[simp] theorem State.applyReset_ks (s : State) : s.applyReset.ks = [] := rfl
@[simp] theorem State.applyReset_trvValid (s : State) : s.applyReset.trvValid = false := rfl
@[simp] theorem State.applyReset_STATUS (s : State) : s.applyReset.STATUS = 0 := rfl
@[simp] theorem State.applyReset_INFO (s : State) : s.applyReset.INFO = 0 := rfl
@[simp] theorem State.applyReset_RES (s : State) : s.applyReset.RES = 0 := rfl
@[simp] theorem State.applyReset_FAULT (s : State) : s.applyReset.FAULT = 0 := rfl
@[simp] theorem State.applyReset_FINFO (s : State) : s.applyReset.FINFO = 0 := rfl
@[simp] theorem State.applyReset_BUF (s : State) : s.applyReset.BUF = [] := rfl
@[simp] theorem State.applyReset_cfg (s : State) : s.applyReset.cfg = s.cfg := rfl
@[simp] theorem State.applyReset_port (s : State) : s.applyReset.port = s.port := rfl
@[simp] theorem State.applyReset_resets (s : State) : s.applyReset.resets = s.resets + 1 := rfl

@[simp] theorem State.ensureSchedule_b (s : State) : s.ensureSchedule.b = s.b := by unfold State.ensureSchedule; split <;> rfl
@[simp] theorem State.ensureSchedule_desKey (s : State) : s.ensureSchedule.desKey = s.desKey := by unfold State.ensureSchedule; split <;> rfl
@[simp] theorem State.ensureSchedule_K (s : State) : s.ensureSchedule.K = if s.desScheduled then s.K else schedule s.desKey := by unfold State.ensureSchedule; split <;> simp_all
@[simp] theorem State.ensureSchedule_desScheduled (s : State) : s.ensureSchedule.desScheduled = true := by unfold State.ensureSchedule; split <;> simp_all
@[simp] theorem State.ensureSchedule_desValid (s : State) : s.ensureSchedule.desValid = s.desValid := by unfold State.ensureSchedule; split <;> rfl
@[simp] theorem State.ensureSchedule_sreg (s : State) : s.ensureSchedule.sreg = s.sreg := by unfold State.ensureSchedule; split <;> rfl
@[simp] theorem State.ensureSchedule_count (s : State) : s.ensureSchedule.count = s.count := by unfold State.ensureSchedule; split <;> rfl
@[simp] theorem State.ensureSchedule_ks (s : State) : s.ensureSchedule.ks = s.ks := by unfold State.ensureSchedule; split <;> rfl
@[simp] theorem State.ensureSchedule_trvValid (s : State) : s.ensureSchedule.trvValid = s.trvValid := by unfold State.ensureSchedule; split <;> rfl
@[simp] theorem State.ensureSchedule_STATUS (s : State) : s.ensureSchedule.STATUS = s.STATUS := by unfold State.ensureSchedule; split <;> rfl
@[simp] theorem State.ensureSchedule_INFO (s : State) : s.ensureSchedule.INFO = s.INFO := by unfold State.ensureSchedule; split <;> rfl
@[simp] theorem State.ensureSchedule_RES (s : State) : s.ensureSchedule.RES = s.RES := by unfold State.ensureSchedule; split <;> rfl
@[simp] theorem State.ensureSchedule_FAULT (s : State) : s.ensureSchedule.FAULT = s.FAULT := by unfold State.ensureSchedule; split <;> rfl
@[simp] theorem State.ensureSchedule_FINFO (s : State) : s.ensureSchedule.FINFO = s.FINFO := by unfold State.ensureSchedule; split <;> rfl
@[simp] theorem State.ensureSchedule_BUF (s : State) : s.ensureSchedule.BUF = s.BUF := by unfold State.ensureSchedule; split <;> rfl
@[simp] theorem State.ensureSchedule_cfg (s : State) : s.ensureSchedule.cfg = s.cfg := by unfold State.ensureSchedule; split <;> rfl
@[simp] theorem State.ensureSchedule_port (s : State) : s.ensureSchedule.port = s.port := by unfold State.ensureSchedule; split <;> rfl
@[simp] theorem State.ensureSchedule_resets (s : State) : s.ensureSchedule.resets = s.resets := by unfold State.ensureSchedule; split <;> rfl

@[simp] theorem State.readB_writeB_self (s : State) (r : BReg) (v : BitSeq) : (s.writeB r v).readB r = v := by
  simp [State.readB, State.writeB]

theorem State.readB_writeB_of_ne (s : State) {r q : BReg} (v : BitSeq) (h : q ≠ r) :
    (s.writeB r v).readB q = s.readB q := by
  have h' : (r : Nat) ≠ q := fun e => h (Fin.ext e.symm)
  simp [State.readB, State.writeB, h']

/-- A register read depends on the register file alone. -/
theorem State.readB_congr {s t : State} (h : t.b = s.b) (r : BReg) : t.readB r = s.readB r := by
  simp [State.readB, h]

/-- Reading a register of a state written out. -/
@[simp] theorem State.readB_mk (b : Vector BitSeq 16) (desKey K desScheduled desValid sreg count ks trvValid STATUS INFO RES
    FAULT FINFO BUF cfg port resets) (r : BReg) :
    (State.mk b desKey K desScheduled desValid sreg count ks trvValid STATUS INFO RES FAULT FINFO BUF cfg port resets).readB
      r = b[r] := rfl

@[simp] theorem State.readB_resetWith (cfg : Params) (n : Nat) (port : List HostAction) (r : BReg) :
    (State.resetWith cfg n port).readB r = [] := by
  simp [State.readB, State.resetWith]

end Sys2Proof.Machine
end

