-- ==== Sys2Proof/Laws/Ops.lean ====
section
/-! SUPPORT. For each shared operation one lemma that says everything it can answer (60_exceptions.md R240, R243 to R245), and
what the operand readers give. -/

namespace Sys2Proof.Machine

/-- The block is halted exactly when FAULT is not 0 (10_state.md R24). -/
@[simp] theorem State.halted_iff (s : State) : s.halted = true ↔ s.FAULT ≠ 0 := by simp [State.halted]

/-- A running block goes on to the command. -/
theorem State.unlessHalted_running {s : State} (h : s.FAULT = 0) (r : Result) : s.unlessHalted r = r := by
  simp [State.unlessHalted, h]

/-- A halted block answers its own state. -/
theorem State.unlessHalted_halted {s : State} (h : s.FAULT ≠ 0) (r : Result) : s.unlessHalted r = .next s := by
  unfold State.unlessHalted
  rw [if_pos ((State.halted_iff s).2 h)]

/-- Everything the halted check can answer. -/
theorem State.unlessHalted_next {s t : State} {r : Result} :
    s.unlessHalted r = .next t ↔ (s.FAULT ≠ 0 ∧ t = s) ∨ (s.FAULT = 0 ∧ r = .next t) := by
  by_cases h : s.FAULT = 0
  · simp only [State.unlessHalted_running h, h, ne_eq, not_true_eq_false, false_and, true_and, false_or]
  · simp only [State.unlessHalted_halted h, h, ne_eq, not_false_eq_true, true_and, false_and, or_false,
      Host.Outcome.next.injEq, eq_comm]

/-- Everything success can answer. -/
@[simp] theorem State.succeed_next {s t : State} : s.succeed = .next t ↔ t = { s with STATUS := 0, INFO := 0 } := by
  simp [State.succeed, eq_comm]

/-- Everything an error can answer. -/
@[simp] theorem State.raiseError_next {s t : State} {e : CmdError} {info : BitVec 32} :
    s.raiseError e info = .next t ↔ t = { s with STATUS := e.code, INFO := info } := by
  simp [State.raiseError, eq_comm]

/-- Everything a fault can answer. -/
@[simp] theorem State.takeFault_next {s t : State} {f : BlockFault} {info : BitVec 32} :
    s.takeFault f info = .next t ↔ t = { s with FAULT := f.code, FINFO := info } := by
  simp [State.takeFault, eq_comm]

/-- Everything the DESU check can answer. -/
theorem State.whenDesValid_next {s t : State} {i : Instr} {r : Result} :
    s.whenDesValid i r = .next t ↔
      (s.desValid = false ∧ t = { s with FAULT := BlockFault.engineNotInitialized.code, FINFO := i.opcode.setWidth 32 }) ∨
        (s.desValid = true ∧ r = .next t) := by
  unfold State.whenDesValid
  by_cases h : s.desValid = true
  · simp [h]
  · rw [if_neg h, State.takeFault_next]
    refine ⟨fun e => .inl ⟨by simpa using h, e⟩, ?_⟩
    rintro (⟨_, e⟩ | ⟨h2, _⟩)
    · exact e
    · exact absurd h2 h

/-- Everything the TRVU check can answer. -/
theorem State.whenTrvValid_next {s t : State} {i : Instr} {r : Result} :
    s.whenTrvValid i r = .next t ↔
      (s.trvValid = false ∧ t = { s with FAULT := BlockFault.engineNotInitialized.code, FINFO := i.opcode.setWidth 32 }) ∨
        (s.trvValid = true ∧ r = .next t) := by
  unfold State.whenTrvValid
  by_cases h : s.trvValid = true
  · simp [h]
  · rw [if_neg h, State.takeFault_next]
    refine ⟨fun e => .inl ⟨by simpa using h, e⟩, ?_⟩
    rintro (⟨_, e⟩ | ⟨h2, _⟩)
    · exact e
    · exact absurd h2 h

/-- Everything a run of updates can answer (R195). -/
theorem State.runUpdates_next {s t : State} {n : Nat} :
    s.runUpdates n = .next t ↔
      (s.cfg.bvCap < s.ks.length + producedBits s.count n ∧ t = { s with FAULT := BlockFault.capacityOverflow.code, FINFO := 0 }) ∨
        (s.ks.length + producedBits s.count n ≤ s.cfg.bvCap ∧
          t = { s.withStream (s.stream.updates n) with STATUS := 0, INFO := 0 }) := by
  unfold State.runUpdates
  by_cases h : s.ks.length + producedBits s.count n ≤ s.cfg.bvCap
  · simp [State.fitsCap, h, Nat.not_lt.2 h]
  · simp [State.fitsCap, h, Nat.lt_of_not_le h]

/-- Everything the keystream XOR can answer (R196). -/
theorem State.xorKeystream_next {s t : State} {rd ra : BReg} :
    s.xorKeystream rd ra = .next t ↔
      (s.count < 1152 ∧ t = { s with STATUS := CmdError.notWarmedUp.code, INFO := 0 }) ∨
        (1152 ≤ s.count ∧ (s.readB ra).length ≠ s.ks.length ∧ t = { s with STATUS := CmdError.lengthMismatch.code, INFO := 0 }) ∨
        (1152 ≤ s.count ∧ (s.readB ra).length = s.ks.length ∧
          t = { s.writeB rd (xorSeq (s.readB ra) s.ks) with STATUS := 0, INFO := 0 }) := by
  unfold State.xorKeystream warmedUp warmupThreshold
  by_cases h : 1152 ≤ s.count
  · by_cases h2 : (s.readB ra).length = s.ks.length <;> simp [h, h2, Nat.not_lt.2 h]
  · simp [h, Nat.lt_of_not_le h]

/-- A host write answers the written byte, or the model's own fault. -/
theorem State.hostWrite_next {s t : State} {a : Nat} {y : Byte} :
    s.hostWrite a y = .next t ↔ a < s.cfg.bufBytes ∧ t = { s with BUF := s.BUF.write a y } := by
  unfold State.hostWrite
  by_cases h : a < s.cfg.bufBytes <;> simp [h, eq_comm]

/-- A byte that has a value is what a command finds (20_memory.md R54). -/
theorem State.bufByte_of_read? {s : State} {a : Nat} {y : Byte} (h : s.BUF.read? a = some y) : s.bufByte a = y := by
  simp [State.bufByte, h]

@[simp] theorem State.memRead_length (s : State) (addr n : Nat) : (s.memRead addr n).length = n := by
  simp [State.memRead]

/-- Element k of a memory read is the byte at addr + k (00_scope.md R9). -/
theorem State.memRead_getElem? (s : State) (addr n k : Nat) :
    (s.memRead addr n)[k]? = if k < n then some (s.bufByte (addr + k)) else none := by
  by_cases h : k < n <;> simp [State.memRead, h]

end Sys2Proof.Machine
end

