-- ==== Sys2Proof/Laws/Step.lean ====
section
/-! SUPPORT. Everything one step can be: waiting, a command word, a host write, a reset (00_scope.md R11, 10_state.md R23). -/

namespace Sys2Proof.Machine

/-- With nothing on the port the step is the identity. -/
theorem step_idle {s : State} (h : s.port = []) : step s = .next s := by
  simp [step, State.serveNext, h]

/-- A command word is taken from the port and issued. -/
theorem step_command {s : State} {w : CmdWord} {rest : List HostAction} (h : s.port = .command w :: rest) :
    step s = State.issue { s with port := rest } w := by
  simp only [step, State.serveNext, h, State.serve]

/-- A host write is taken from the port and served. -/
theorem step_writeBuf {s : State} {a : Nat} {y : Byte} {rest : List HostAction} (h : s.port = .writeBuf a y :: rest) :
    step s = State.hostWrite { s with port := rest } a y := by
  simp only [step, State.serveNext, h, State.serve]

/-- A reset is taken from the port and applied. -/
theorem step_reset {s : State} {rest : List HostAction} (h : s.port = .reset :: rest) :
    step s = .next (State.resetWith s.cfg (s.resets + 1) rest) := by
  simp only [step, State.serveNext, h, State.serve, State.applyReset]

/-- Everything the issue of a word can be: ignored, illegal, or its command's meaning (30_encoding.md R83). -/
theorem State.issue_eq (s : State) (w : CmdWord) :
    s.issue w =
      if s.FAULT ≠ 0 then .next s
      else match decode w with
        | .error _ => s.takeFault .illegalCommand (illegalInfo w)
        | .ok i => exec i s := by
  by_cases h : s.FAULT = 0
  · cases hd : decode w <;> simp [State.issue, State.unlessHalted_running h, hd, h]
  · rw [State.issue, State.unlessHalted_halted h, if_pos h]

end Sys2Proof.Machine
end

