-- ==== Sys2Proof/Laws/Exec.lean ====
section
/-! SUPPORT. Once and for all commands: a command that answers a next state was ignored, ended in an error, ended in a fault, or
had its one effect (60_exceptions.md R240). -/

namespace Sys2Proof.Machine

/-- The state a command leaves when it succeeds, before STATUS and INFO are cleared. -/
def commandEffect (s : State) : Instr → State
  | .bvConstruct rd n addr => s.writeB rd ((s.memRead addr n).map fun y => y == 1)
  | .bvGet ra i => s.writeRes (zext64 ((s.readB ra).getD i false).toNat)
  | .bvSet rd i bit => s.writeB rd (slice (s.readB rd) 0 i ++ [bit] ++ slice (s.readB rd) (i + 1) (s.readB rd).length)
  | .bvInsert rd i bit => s.writeB rd (slice (s.readB rd) 0 i ++ [bit] ++ slice (s.readB rd) i (s.readB rd).length)
  | .bvAppend rd bit => s.writeB rd (s.readB rd ++ [bit])
  | .bvShl rd n => s.writeB rd (s.readB rd ++ zeros n)
  | .bvShr rd n => s.writeB rd (zeros n ++ slice (rotr (s.readB rd) n) n (s.readB rd).length)
  | .bvRev rd ra => s.writeB rd (reverseChunks (s.readB ra))
  | .bvRevi rd => s.writeB rd (reverseChunks (s.readB rd))
  | .bvXor rd ra rb => s.writeB rd (xorSeq (s.readB ra) (s.readB rb))
  | .bvPack ra addr => (s.memWrite addr (pack (s.readB ra))).writeRes (zext64 (pack (s.readB ra)).length)
  | .bvStore ra addr =>
    (s.memWrite addr ((s.readB ra).map wireByte)).writeRes (zext64 ((s.readB ra).map wireByte).length)
  | .bvLen ra => s.writeRes (zext64 (s.readB ra).length)
  | .desLoadKey key => { s with desKey := key, K := Vector.replicate 16 0, desScheduled := false, desValid := true }
  | .desSched => s.ensureSchedule
  | .desEnc block => s.ensureSchedule.writeRes (encryptBlock block s.ensureSchedule.K)
  | .desDec block => s.ensureSchedule.writeRes (decryptBlock block s.ensureSchedule.K)
  | .trvInit ra rb =>
    { s with sreg := loadKeyIv (s.readB ra) (s.readB rb), count := 0, ks := [], trvValid := true }
  | .trvWarmup => s.withStream (s.stream.updates warmupThreshold)
  | .trvGen n => s.withStream (s.stream.updates n)
  | .trvEnc rd ra => s.writeB rd (xorSeq (s.readB ra) s.ks)
  | .trvDec rd ra => s.writeB rd (xorSeq (s.readB ra) s.ks)
  | .trvKs rd => s.writeB rd s.ks

/-- What a command has checked when it succeeds: ranges, capacities, lengths and the engine it needs. -/
def commandChecks (s : State) : Instr → Prop
  | .bvConstruct _ n addr => addr + n ≤ s.cfg.bufBytes ∧ n ≤ s.cfg.bvCap
  | .bvGet ra i => i < (s.readB ra).length
  | .bvSet rd i _ => i < (s.readB rd).length
  | .bvInsert rd i _ => i ≤ (s.readB rd).length ∧ (s.readB rd).length + 1 ≤ s.cfg.bvCap
  | .bvAppend rd _ => (s.readB rd).length + 1 ≤ s.cfg.bvCap
  | .bvShl rd n => (s.readB rd).length + n ≤ s.cfg.bvCap
  | .bvShr rd n => n ≤ (s.readB rd).length
  | .bvRev _ _ => True
  | .bvRevi _ => True
  | .bvXor _ ra rb => (s.readB ra).length = (s.readB rb).length
  | .bvPack ra addr => addr + (pack (s.readB ra)).length ≤ s.cfg.bufBytes
  | .bvStore ra addr => addr + ((s.readB ra).map wireByte).length ≤ s.cfg.bufBytes
  | .bvLen _ => True
  | .desLoadKey _ => True
  | .desSched => s.desValid = true
  | .desEnc _ => s.desValid = true
  | .desDec _ => s.desValid = true
  | .trvInit ra rb => (s.readB ra).length = 80 ∧ (s.readB rb).length = 80
  | .trvWarmup => s.trvValid = true ∧ s.ks.length + producedBits s.count warmupThreshold ≤ s.cfg.bvCap
  | .trvGen n => s.trvValid = true ∧ s.ks.length + producedBits s.count n ≤ s.cfg.bvCap
  | .trvEnc _ ra => s.trvValid = true ∧ 1152 ≤ s.count ∧ (s.readB ra).length = s.ks.length
  | .trvDec _ ra => s.trvValid = true ∧ 1152 ≤ s.count ∧ (s.readB ra).length = s.ks.length
  | .trvKs _ => s.trvValid = true

/-- A halted block's command answers the same state (R245). -/
theorem exec_halted {s : State} (h : s.FAULT ≠ 0) (i : Instr) : exec i s = .next s := by
  cases i <;> exact State.unlessHalted_halted h _

/-- Everything a command can answer in a running block: an error, a fault, or its effect after its checks. -/
theorem exec_running_next {s t : State} (hf : s.FAULT = 0) {i : Instr} (h : exec i s = .next t) :
    (∃ e : CmdError, ∃ info, t = { s with STATUS := e.code, INFO := info }) ∨
      (∃ f : BlockFault, ∃ info, t = { s with FAULT := f.code, FINFO := info }) ∨
      (commandChecks s i ∧ t = { commandEffect s i with STATUS := 0, INFO := 0 }) := by
  have err : ∀ {e info}, s.raiseError e info = .next t →
      ∃ e : CmdError, ∃ info, t = { s with STATUS := e.code, INFO := info } :=
    fun h => ⟨_, _, State.raiseError_next.1 h⟩
  have flt : ∀ {f info}, s.takeFault f info = .next t →
      ∃ f : BlockFault, ∃ info, t = { s with FAULT := f.code, FINFO := info } :=
    fun h => ⟨_, _, State.takeFault_next.1 h⟩
  have suc : ∀ {u : State}, u.succeed = .next t → t = { u with STATUS := 0, INFO := 0 } :=
    fun h => State.succeed_next.1 h
  revert h
  cases i <;>
    simp only [exec, execBvConstruct, execBvGet, execBvSet, execBvInsert, execBvAppend, execBvShl, execBvShr,
      execBvRev, execBvRevi, execBvXor, execBvPack, execBvStore, execBvLen, execDesLoadKey, execDesSched, execDesEnc,
      execDesDec, execTrvInit, execTrvWarmup, execTrvGen, execTrvEnc, execTrvDec, execTrvKs,
      State.unlessHalted_running hf, State.whenDesValid, State.whenTrvValid, State.runUpdates, State.xorKeystream] <;>
    (repeat' split) <;> intro h <;>
    first
      | exact .inl (err h)
      | exact .inr (.inl (flt h))
      | exact .inr (.inr ⟨by
          simp_all [commandChecks, warmedUp, warmupThreshold, streamKeyBits, State.inBuf, State.fitsCap] <;>
            exact of_decide_eq_true ‹_›, suc h⟩)
      | skip
  · rename_i ra i bit hb
    obtain ⟨hi, hb⟩ := List.getElem?_eq_some_iff.1 hb
    refine .inr (.inr ⟨hi, (suc h).trans ?_⟩)
    simp [commandEffect, hb, hi]

/-- A command of a running block whose checks hold has its effect; BV.CONSTRUCT also needs wire bits (R102). -/
theorem exec_effect {s : State} {i : Instr} (hf : s.FAULT = 0) (hc : commandChecks s i)
    (hb : ∀ rd n addr, i = .bvConstruct rd n addr → ∀ y ∈ s.memRead addr n, isWireBit y = true) :
    exec i s = .next { commandEffect s i with STATUS := 0, INFO := 0 } := by
  cases i <;>
    simp only [exec, execBvConstruct, execBvGet, execBvSet, execBvInsert, execBvAppend, execBvShl, execBvShr,
      execBvRev, execBvRevi, execBvXor, execBvPack, execBvStore, execBvLen, execDesLoadKey, execDesSched, execDesEnc,
      execDesDec, execTrvInit, execTrvWarmup, execTrvGen, execTrvEnc, execTrvDec, execTrvKs,
      State.unlessHalted_running hf, State.whenDesValid, State.whenTrvValid, State.runUpdates, State.xorKeystream] <;>
    simp only [commandChecks] at hc <;> simp only [commandEffect]
  case bvConstruct rd n addr =>
    have : (s.memRead addr n).find? (fun y => !isWireBit y) = none := by
      rw [List.find?_eq_none]
      intro y hy
      simp [hb rd n addr rfl y hy]
    simp [State.inBuf, State.fitsCap, hc, this, State.succeed]
  case trvWarmup =>
    rw [if_pos hc.1, if_neg (by simp [State.fitsCap, hc.2]), State.succeed]
  case trvGen =>
    rw [if_pos hc.1, if_neg (by simp [State.fitsCap, hc.2]), State.succeed]
  case trvEnc | trvDec =>
    rw [if_pos hc.1, if_neg (by simp [warmedUp, warmupThreshold, hc.2.1]), if_neg (by simp [hc.2.2]), State.succeed]
  all_goals first
    | rfl
    | simp_all [State.inBuf, State.fitsCap, State.succeed, streamKeyBits]

/-- A command's answer does not depend on what the host does after it (60_exceptions.md R256). -/
theorem exec_withPort {s t : State} {i : Instr} (p : List HostAction) (h : exec i s = .next t) :
    exec i { s with port := p } = .next { t with port := p } := by
  by_cases hf : s.FAULT = 0
  · obtain ⟨u, hu⟩ : ∃ u, u = { s with port := p } := ⟨_, rfl⟩
    have hb : ∀ r, u.readB r = s.readB r := fun _ => by rw [hu]; rfl
    have hm : ∀ a n, u.memRead a n = s.memRead a n := fun _ _ => by rw [hu]; rfl
    have hi : ∀ a n, u.inBuf a n = s.inBuf a n := fun _ _ => by rw [hu]; rfl
    have hc : ∀ n, u.fitsCap n = s.fitsCap n := fun _ => by rw [hu]; rfl
    have hs : u.stream = s.stream := by rw [hu]; rfl
    have he : u.ensureSchedule = { s.ensureSchedule with port := p } := by
      rw [hu]; simp only [State.ensureSchedule]; split <;> rfl
    have hk : u.ks = s.ks := by rw [hu]
    have hn : u.count = s.count := by rw [hu]
    have hv : u.trvValid = s.trvValid := by rw [hu]
    have hd : u.desValid = s.desValid := by rw [hu]
    have hf' : u.FAULT = 0 := by rw [hu]; exact hf
    rw [← hu]
    revert h
    cases i <;>
      simp only [exec, execBvConstruct, execBvGet, execBvSet, execBvInsert, execBvAppend, execBvShl, execBvShr,
        execBvRev, execBvRevi, execBvXor, execBvPack, execBvStore, execBvLen, execDesLoadKey, execDesSched, execDesEnc,
        execDesDec, execTrvInit, execTrvWarmup, execTrvGen, execTrvEnc, execTrvDec, execTrvKs,
        State.unlessHalted_running hf, State.unlessHalted_running hf', State.whenDesValid, State.whenTrvValid,
        State.runUpdates, State.xorKeystream, hb, hm, hi, hc, hs, he, hk, hn, hv, hd] <;>
      (repeat' split) <;> intro h <;> subst hu <;> cases h <;>
      simp only [State.succeed, State.raiseError, State.takeFault, State.writeB, State.writeRes, State.memWrite,
        State.withStream]
  · rw [exec_halted hf] at h
    cases h
    exact exec_halted (s := { s with port := p }) hf i

/-- Everything a command can answer in any block (R240): ignored, an error, a fault, or its effect after its checks. -/
theorem exec_next {s t : State} {i : Instr} (h : exec i s = .next t) :
    (s.FAULT ≠ 0 ∧ t = s) ∨
      (s.FAULT = 0 ∧
        ((∃ e : CmdError, ∃ info, t = { s with STATUS := e.code, INFO := info }) ∨
          (∃ f : BlockFault, ∃ info, t = { s with FAULT := f.code, FINFO := info }) ∨
          (commandChecks s i ∧ t = { commandEffect s i with STATUS := 0, INFO := 0 }))) := by
  by_cases hf : s.FAULT = 0
  · exact .inr ⟨hf, exec_running_next hf h⟩
  · rw [exec_halted hf] at h
    cases h
    exact .inl ⟨hf, rfl⟩

end Sys2Proof.Machine
end

