-- ==== Sys2Proof/Laws/Outcomes.lean ====
section
/-! SUPPORT. The updates of State that commands make, in the terms of Safety.lean. -/

namespace Sys2Proof.Machine

/-- A register write that succeeds is `WroteReg`. -/
theorem wroteReg_writeB (s : State) (rd : BReg) (v : BitSeq) :
    WroteReg s { s.writeB rd v with STATUS := 0, INFO := 0 } rd v :=
  ⟨State.readB_writeB_self s rd v, fun _ h => State.readB_writeB_of_ne s v h, rfl, rfl, rfl⟩

/-- A RES write that succeeds is `WroteRes`. -/
theorem wroteRes_writeRes (s : State) (x : BitVec 64) :
    WroteRes s { s.writeRes x with STATUS := 0, INFO := 0 } x := ⟨rfl, rfl, rfl, rfl⟩

/-- A store that succeeds is `StoredBytes`. -/
theorem storedBytes_memWrite (s : State) (addr : Nat) (ys : List Byte) :
    StoredBytes s { (s.memWrite addr ys).writeRes (zext64 ys.length) with STATUS := 0, INFO := 0 } addr ys := by
  refine ⟨rfl, rfl, rfl, fun k hk => ?_, fun a ha => ?_, rfl⟩
  · show (s.BUF.writeBytes addr ys).read? _ = _
    rw [Memory.read?_writeBytes, if_pos (by omega)]
    congr 1
    omega
  · show (s.BUF.writeBytes addr ys).read? _ = _
    rw [Memory.read?_writeBytes, if_neg (by omega)]

end Sys2Proof.Machine
end

