-- ==== Sys2Proof/Laws/PerInstr.lean ====
section
/-! SUPPORT. The statements made for every command as syntax, one lemma per constructor (LAWS.json). -/

namespace Sys2Proof.Laws.OneTableRow

/-- Exactly one row of the opcode table has this command's opcode, and it carries the command's mnemonic (30_encoding.md
R73). -/
def Statement (i : Instr) : Prop :=
  (opcodeTable.filter fun row => row.pattern == wordOf { op := i.opcode }).map OpcodeRow.mnemonic = [i.mnemonic]

theorem bvConstruct (rd : BReg) (n addr : Nat) : Statement (.bvConstruct rd n addr) := by
  simp only [Statement, Instr.opcode, Instr.mnemonic]; decide
theorem bvGet (ra : BReg) (i : Nat) : Statement (.bvGet ra i) := by
  simp only [Statement, Instr.opcode, Instr.mnemonic]; decide
theorem bvSet (rd : BReg) (i : Nat) (bit : Bit) : Statement (.bvSet rd i bit) := by
  simp only [Statement, Instr.opcode, Instr.mnemonic]; decide
theorem bvInsert (rd : BReg) (i : Nat) (bit : Bit) : Statement (.bvInsert rd i bit) := by
  simp only [Statement, Instr.opcode, Instr.mnemonic]; decide
theorem bvAppend (rd : BReg) (bit : Bit) : Statement (.bvAppend rd bit) := by
  simp only [Statement, Instr.opcode, Instr.mnemonic]; decide
theorem bvShl (rd : BReg) (n : Nat) : Statement (.bvShl rd n) := by
  simp only [Statement, Instr.opcode, Instr.mnemonic]; decide
theorem bvShr (rd : BReg) (n : Nat) : Statement (.bvShr rd n) := by
  simp only [Statement, Instr.opcode, Instr.mnemonic]; decide
theorem bvRev (rd ra : BReg) : Statement (.bvRev rd ra) := by
  simp only [Statement, Instr.opcode, Instr.mnemonic]; decide
theorem bvRevi (rd : BReg) : Statement (.bvRevi rd) := by
  simp only [Statement, Instr.opcode, Instr.mnemonic]; decide
theorem bvXor (rd ra rb : BReg) : Statement (.bvXor rd ra rb) := by
  simp only [Statement, Instr.opcode, Instr.mnemonic]; decide
theorem bvPack (ra : BReg) (addr : Nat) : Statement (.bvPack ra addr) := by
  simp only [Statement, Instr.opcode, Instr.mnemonic]; decide
theorem bvStore (ra : BReg) (addr : Nat) : Statement (.bvStore ra addr) := by
  simp only [Statement, Instr.opcode, Instr.mnemonic]; decide
theorem bvLen (ra : BReg) : Statement (.bvLen ra) := by
  simp only [Statement, Instr.opcode, Instr.mnemonic]; decide
theorem desLoadKey (key : BitVec 64) : Statement (.desLoadKey key) := by
  simp only [Statement, Instr.opcode, Instr.mnemonic]; decide
theorem desSched : Statement .desSched := by
  simp only [Statement, Instr.opcode, Instr.mnemonic]; decide
theorem desEnc (block : BitVec 64) : Statement (.desEnc block) := by
  simp only [Statement, Instr.opcode, Instr.mnemonic]; decide
theorem desDec (block : BitVec 64) : Statement (.desDec block) := by
  simp only [Statement, Instr.opcode, Instr.mnemonic]; decide
theorem trvInit (ra rb : BReg) : Statement (.trvInit ra rb) := by
  simp only [Statement, Instr.opcode, Instr.mnemonic]; decide
theorem trvWarmup : Statement .trvWarmup := by
  simp only [Statement, Instr.opcode, Instr.mnemonic]; decide
theorem trvGen (n : Nat) : Statement (.trvGen n) := by
  simp only [Statement, Instr.opcode, Instr.mnemonic]; decide
theorem trvEnc (rd ra : BReg) : Statement (.trvEnc rd ra) := by
  simp only [Statement, Instr.opcode, Instr.mnemonic]; decide
theorem trvDec (rd ra : BReg) : Statement (.trvDec rd ra) := by
  simp only [Statement, Instr.opcode, Instr.mnemonic]; decide
theorem trvKs (rd : BReg) : Statement (.trvKs rd) := by
  simp only [Statement, Instr.opcode, Instr.mnemonic]; decide

end Sys2Proof.Laws.OneTableRow
end

