-- ==== Sys2Proof/Laws/Trivium.lean ====
section
/-! SUPPORT. The laws of the TRVU's update transition (43_trivium_engine.md R192, R195, R203). -/

namespace Sys2Proof.Machine

/-- n updates move the count by n and the keystream buffer by the bits they produce (R195). -/
theorem StreamCore.updates_lengths (n : Nat) (c : StreamCore) :
    (c.updates n).count = c.count + n ∧ (c.updates n).ks.length = c.ks.length + producedBits c.count n := by
  induction n with
  | zero => simp [StreamCore.updates, producedBits]
  | succ n ih =>
    obtain ⟨h1, h2⟩ := ih
    simp only [StreamCore.updates, StreamCore.update, h1, warmedUp]
    refine ⟨by omega, ?_⟩
    by_cases h : warmupThreshold ≤ c.count + n
    · simp only [h, decide_true, if_true, List.length_cons, h2]
      simp only [producedBits]; omega
    · simp only [h, decide_false, Bool.false_eq_true, if_false, h2]
      simp only [producedBits]; omega

/-- a + b updates are a updates and then b updates. -/
theorem StreamCore.updates_add (a b : Nat) (c : StreamCore) : c.updates (a + b) = (c.updates a).updates b := by
  induction b with
  | zero => rfl
  | succ b ih => rw [← Nat.add_assoc, StreamCore.updates, ih, StreamCore.updates]

/-- n updates are the update transition n times. -/
theorem StreamCore.updates_eq_iterate (n : Nat) (c : StreamCore) : c.updates n = StreamCore.update^[n] c := by
  induction n with
  | zero => rfl
  | succ n ih => rw [StreamCore.updates, ih, Function.iterate_succ_apply']

/-- Writing one state bit writes that bit alone. -/
theorem setSBit_getLsbD (x : BitVec 288) (i : Nat) (bit : Bit) (j : Nat) (hj : j < 288) :
    (setSBit x i bit).getLsbD j = if j = i then bit else x.getLsbD j := by
  unfold setSBit
  rw [BitVec.getLsbD_or, BitVec.getLsbD_and, BitVec.getLsbD_not]
  by_cases h : j = i
  · subst h
    cases bit <;> simp [hj]
  · have h3 : ¬ j - i = 0 ∨ j < i := by omega
    rcases h3 with h3 | h3 <;> cases bit <;> simp [h, hj, h3]

/-- The rotation of the state: s[i] moves to s[i+1] and s[287] to s[0] (R192). -/
theorem rotrS_getLsbD (x : BitVec 288) (i : Nat) (hi : i < 288) :
    (rotrS x).getLsbD i = if i = 0 then x.getLsbD 287 else x.getLsbD (i - 1) := by
  unfold rotrS
  rw [BitVec.getLsbD_rotateLeft]
  by_cases h : i = 0
  · subst h; simp
  · simp [h, show ¬ i < 1 by omega, hi]

/-- A run of state-bit writes at off, off + 1, ... . -/
theorem foldl_setSBit_getLsbD (f : Nat → Bit) (off n : Nat) (x : BitVec 288) (j : Nat) (hj : j < 288)
    (hn : off + n ≤ 288) :
    ((List.range n).foldl (fun x i => setSBit x (off + i) (f i)) x).getLsbD j =
      if off ≤ j ∧ j < off + n then f (j - off) else x.getLsbD j := by
  induction n with
  | zero => rw [if_neg (by omega)]; rfl
  | succ n ih =>
    rw [List.range_succ, List.foldl_append, List.foldl_cons, List.foldl_nil, setSBit_getLsbD _ _ _ _ hj, ih (by omega)]
    by_cases h : j = off + n
    · subst h; simp
    · by_cases h2 : off ≤ j ∧ j < off + n
      · rw [if_neg h, if_pos h2, if_pos (by omega)]
      · rw [if_neg h, if_neg h2, if_neg (by omega)]

/-- What TRV.INIT loads, bit by bit (R193). -/
theorem loadKeyIv_getLsbD (k v : BitSeq) (j : Nat) (hj : j < 288) :
    (loadKeyIv k v).getLsbD j =
      if j < 80 then k.getD j false else if 93 ≤ j ∧ j < 173 then v.getD (j - 93) false else decide (285 ≤ j) := by
  unfold loadKeyIv
  simp only [streamKeyBits]
  rw [setSBit_getLsbD _ _ _ _ hj, setSBit_getLsbD _ _ _ _ hj, setSBit_getLsbD _ _ _ _ hj, foldl_setSBit_getLsbD _ _ _ _ _ hj (by omega)]
  have := foldl_setSBit_getLsbD (fun i => k.getD i false) 0 80 0#288 j hj (by omega)
  simp only [Nat.zero_add] at this
  rw [this]
  simp only [Nat.zero_le, true_and, Nat.sub_zero, Nat.reduceAdd]
  split_ifs <;> first | rfl | (exfalso; omega) | (simp; omega)

end Sys2Proof.Machine
end

