-- ==== Sys2Proof/Tests/Slice0.lean ====
section
/-! SUPPORT. Tests whose expected values are written out in spec/95_test_vectors.md (V<n>, programs P1 to P5), in the tables
and templates of the rules, or computed by hand from them; then, for every statement with hypotheses, a witness that meets
them. -/

namespace Sys2Proof.Tests

open Sys2Proof.Machine

/-- The bit sequence whose n bits, index 0 first, are the n low bits of x, high bit first. -/
def bits (n x : Nat) : BitSeq := (List.range n).map fun j => x.testBit (n - 1 - j)

/-- The state after reset with the value v in register r. -/
def withReg (r : BReg) (v : BitSeq) : State := State.reset.writeB r v

/-- The state after reset with some bytes of BUF written. -/
def withBuf (addr : Nat) (ys : List Byte) : State := State.reset.memWrite addr ys

/-- The state after reset of a block with other parameters. -/
def withCfg (bvCap bufBytes : Nat) : State := State.resetWith ⟨bvCap, bufBytes⟩ 0 []

/-- The state after reset with a DES key loaded and not scheduled. -/
def withKey (key : BitVec 64) : State := { State.reset with desKey := key, desValid := true }

/-- The state after reset with a stream engine. -/
def withStreamAt (count : Nat) (ks : BitSeq) : State :=
  { State.reset with sreg := loadKeyIv (zeros 80) (zeros 80), count := count, ks := ks, trvValid := true }

/-- A part of the state after a command, if the command answers a next state. -/
def after {α : Type} (i : Instr) (s : State) (f : State → α) : Option α :=
  match exec i s with
  | .next t => some (f t)
  | .fault _ => none
  | .refused _ => none

/-- A part of the state after a step, if the step answers a next state. -/
def afterStep {α : Type} (s : State) (f : State → α) : Option α :=
  match step s with
  | .next t => some (f t)
  | .fault _ => none
  | .refused _ => none

/-- STATUS and INFO. -/
def report (s : State) : BitVec 8 × BitVec 32 := (s.STATUS, s.INFO)

/-- FAULT and FINFO. -/
def faultReport (s : State) : BitVec 8 × BitVec 32 := (s.FAULT, s.FINFO)

/-- What `after` shows of the whole state is what exec answers. -/
theorem exec_of_after {i : Instr} {s t : State} (h : after i s id = some t) : exec i s = .next t := by
  unfold after at h
  split at h
  · rename_i u hu
    rw [hu]
    exact congrArg Host.Outcome.next (Option.some.inj h)
  · cases h
  · cases h

/-! ### Well-formedness: what does not fit its field is refused -/

theorem test_wf_count_too_large : (Instr.bvConstruct 2 (2 ^ 32) 0).wellFormed = false := by decide
theorem test_wf_index_too_large : (Instr.bvSet 2 (2 ^ 32) true).wellFormed = false := by decide
theorem test_wf_updates_too_many : (Instr.trvGen (2 ^ 32)).wellFormed = false := by decide
theorem test_wf_address_too_large : (Instr.bvPack 3 (2 ^ 32)).wellFormed = false := by decide
theorem test_wf_construct_address_too_large : (Instr.bvConstruct 2 1 (2 ^ 32)).wellFormed = false := by decide
theorem test_wf_largest : (Instr.bvConstruct 15 (2 ^ 32 - 1) (2 ^ 32 - 1)).wellFormed = true := by decide

/-! ### Decoding: one word for every command, written out by R70 and R73 (V70 to V79, P1 to P5) -/

theorem test_decode_construct : decode 0x10200000000000040000000000000040 = .ok (.bvConstruct 2 4 0x40) := by decide
theorem test_decode_get : decode 0x11020000000000100000000000000000 = .ok (.bvGet 2 16) := by decide
theorem test_decode_set : decode 0x12200001000000000000000000000000 = .ok (.bvSet 2 0 true) := by decide
theorem test_decode_insert : decode 0x13200001000000100000000000000000 = .ok (.bvInsert 2 16 true) := by decide
theorem test_decode_append : decode 0x14200000000000000000000000000000 = .ok (.bvAppend 2 false) := by decide
theorem test_decode_shl : decode 0x15000000000000040000000000000000 = .ok (.bvShl 0 4) := by decide
theorem test_decode_shr : decode 0x16000000000000030000000000000000 = .ok (.bvShr 0 3) := by decide
theorem test_decode_rev : decode 0x17100000000000000000000000000000 = .ok (.bvRev 1 0) := by decide
theorem test_decode_revi : decode 0x18200000000000000000000000000000 = .ok (.bvRevi 2) := by decide
theorem test_decode_xor : decode 0x19201000000000000000000000000000 = .ok (.bvXor 2 0 1) := by decide
theorem test_decode_pack : decode 0x1A020000000000000000000000000100 = .ok (.bvPack 2 0x100) := by decide
theorem test_decode_store : decode 0x1B020000000000000000000000000200 = .ok (.bvStore 2 0x200) := by decide
theorem test_decode_len : decode 0x1C020000000000000000000000000000 = .ok (.bvLen 2) := by decide
theorem test_decode_loadkey : decode 0x2000000000000000133457799BBCDFF1 = .ok (.desLoadKey 0x133457799BBCDFF1) := by decide
theorem test_decode_sched : decode 0x21000000000000000000000000000000 = .ok .desSched := by decide
theorem test_decode_des_enc : decode 0x22000000000000000123456789ABCDEF = .ok (.desEnc 0x0123456789ABCDEF) := by decide
theorem test_decode_des_dec : decode 0x2300000000000000A74BCE81F3679AEF = .ok (.desDec 0xA74BCE81F3679AEF) := by decide
theorem test_decode_trv_init : decode 0x30031000000000000000000000000000 = .ok (.trvInit 3 1) := by decide
theorem test_decode_warmup : decode 0x31000000000000000000000000000000 = .ok .trvWarmup := by decide
theorem test_decode_gen : decode 0x32000000000000280000000000000000 = .ok (.trvGen 40) := by decide
theorem test_decode_trv_enc : decode 0x33420000000000000000000000000000 = .ok (.trvEnc 4 2) := by decide
theorem test_decode_trv_dec : decode 0x34540000000000000000000000000000 = .ok (.trvDec 5 4) := by decide
theorem test_decode_ks : decode 0x35300000000000000000000000000000 = .ok (.trvKs 3) := by decide

/-- The illegal words of V80, each with its reason. -/
theorem test_decode_illegal :
    decode 0x00000000000000000000000000000000 = .error .reservedOpcode ∧
    decode 0x1D000000000000000000000000000000 = .error .reservedOpcode ∧
    decode 0x21000000000000000000000000000001 = .error .unusedFieldNotZero ∧
    decode 0x1C010001000000000000000000000000 = .error .unusedFieldNotZero ∧
    decode 0x10000000000000020000000100000000 = .error .unusedFieldNotZero ∧
    decode 0x14200200000000000000000000000000 = .error .unusedFieldNotZero ∧
    decode 0x22100000000000000000000000000000 = .error .unusedFieldNotZero := by decide

/-- The pseudo-commands (V79). -/
theorem test_pseudo_commands :
    encode (.bvPrepend 3 true) = 0x13300001000000000000000000000000 ∧
    encode (.bvClear 5) = 0x10500000000000000000000000000000 ∧
    encode .trvUpdate = 0x32000000000000010000000000000000 := by decide

/-- The table's word numbering is that of the command word; bits above the row's are 0. -/
theorem test_table_word :
    decodeTableWord 128 0x1A030000000000000000000000000200 = some (.bvPack 3 0x200) ∧
    decodeTableWord 128 0 = none := by decide

/-- The assembler spelling of V72 and V74 (R78). -/
theorem test_asm :
    (Instr.bvInsert 2 16 true).asm = "BV.INSERT b2, 16, 1" ∧ (Instr.bvPack 3 512).asm = "BV.PACK b3, @512" ∧
    Instr.asm .desSched = "DES.SCHED" := by decide

/-! ### Step, faults, reset -/

/-- P5 b: the all-zero word right after reset. -/
theorem test_step_illegal :
    afterStep (State.reset.withFetchWord 128 0) faultReport = some (0x81, 0) := by decide

/-- V87: decode comes before the engine check. -/
theorem test_step_decode_before_engine :
    afterStep (State.reset.withFetchWord 128 0x22100000000000000000000000000000) faultReport =
      some (0x81, 0x22100000) := by decide

/-- P1 step 2, as a step. -/
theorem test_step_command :
    afterStep ((withReg 0 (bits 12 0b101100101110)).withFetchWord 128 0x15000000000000040000000000000000)
      (fun t => t.readB 0) = some (bits 16 0b1011001011100000) := by decide

/-- P4 step 13: a halted block ignores BV.LEN (R245). -/
theorem test_halted_ignores :
    after (.bvLen 0) { withReg 0 (zeros 24) with FAULT := 0x82, FINFO := 24, STATUS := 5 }
      (fun t => (t.RES, report t, faultReport t)) = some (0, (5, 0), (0x82, 24)) := by decide

/-- V88: reset leaves the halted state, and the host's next action is still there. -/
theorem test_reset_from_halted :
    afterStep { withReg 0 (zeros 24) with FAULT := 0x82, FINFO := 24, port := [.reset, .writeBuf 0 1] }
      (fun t => (t.readB 0, faultReport t, t.port)) = some ([], (0, 0), [.writeBuf 0 1]) := by decide

/-- A host write puts the byte where it says (R32). -/
theorem test_host_write :
    afterStep { withBuf 4 [9] with port := [.writeBuf 3 7] } (fun t => t.BUF) = some [(3, 7), (4, 9)] := by
  decide

/-! ### BVU (V30 to V44) -/

theorem test_construct_ok :
    after (.bvConstruct 1 4 0) (withBuf 0 [1, 0, 1, 1]) (fun t => (t.readB 1, report t)) =
      some (bits 4 0b1011, (0, 0)) := by decide
theorem test_construct_invalid_bit :
    after (.bvConstruct 2 4 0x40) (withBuf 0x40 [1, 2, 0, 3]) (fun t => (t.readB 2, report t, t.FAULT)) =
      some ([], (1, 2), 0) := by decide
theorem test_construct_range_before_capacity :
    after (.bvConstruct 0 97 0) (withCfg 80 96) faultReport = some (0x85, 0) := by decide
theorem test_get : after (.bvGet 0 2) (withReg 0 (bits 3 0b101)) (fun t => t.RES) = some 1 := by decide
theorem test_get_range :
    after (.bvGet 0 3) (withReg 0 (bits 3 0b101)) (fun t => (faultReport t, t.RES)) = some ((0x82, 3), 0) := by
  decide
theorem test_set :
    after (.bvSet 0 3 false) (withReg 0 (bits 4 0b1101)) (fun t => t.readB 0) = some (bits 4 0b1100) := by decide
theorem test_set_range :
    after (.bvSet 0 4 false) (withReg 0 (bits 4 0b1101)) faultReport = some (0x82, 4) := by decide
theorem test_insert :
    after (.bvInsert 0 1 true) (withReg 0 (bits 3 0b101)) (fun t => t.readB 0) = some (bits 4 0b1101) := by decide
theorem test_insert_at_length :
    after (.bvInsert 0 3 true) (withReg 0 (bits 3 0b101)) (fun t => t.readB 0) = some (bits 4 0b1011) := by
  decide
theorem test_append :
    after (.bvAppend 0 false) (withReg 0 (bits 3 0b101)) (fun t => t.readB 0) = some (bits 4 0b1010) := by decide
theorem test_append_capacity :
    after (.bvAppend 0 false) ((withCfg 16 4096).writeB 0 (zeros 16)) (fun t => (faultReport t, t.readB 0)) =
      some ((0x84, 0), zeros 16) := by decide
theorem test_shl :
    after (.bvShl 0 2) (withReg 0 (bits 3 0b101)) (fun t => t.readB 0) = some (bits 5 0b10100) := by decide
theorem test_shl_capacity :
    after (.bvShl 0 17) (withCfg 16 4096) faultReport = some (0x84, 0) := by decide
theorem test_shr :
    after (.bvShr 0 2) (withReg 0 (bits 3 0b101)) (fun t => t.readB 0) = some (bits 3 0b001) := by decide
theorem test_shr_range :
    after (.bvShr 0 5) (withReg 0 (zeros 4)) (fun t => (faultReport t, t.readB 0)) = some ((0x83, 5), zeros 4) := by
  decide
theorem test_rev :
    after (.bvRev 1 0) (withReg 0 (bits 16 0b0001011001011100)) (fun t => t.readB 1) =
      some (bits 16 0b0101110000010110) := by decide
theorem test_rev_short_chunk :
    after (.bvRev 0 0) (withReg 0 (bits 12 0b101100101110)) (fun t => t.readB 0) =
      some (bits 12 0b111010110010) := by decide
theorem test_revi :
    after (.bvRevi 2) (withReg 2 (bits 18 0b110010100100101010)) (fun t => t.readB 2) =
      some (bits 18 0b100100101011001010) := by decide
theorem test_xor :
    after (.bvXor 2 0 1) ((withReg 0 (bits 16 0b0001011001011100)).writeB 1 (bits 16 0b0101110000010110))
      (fun t => t.readB 2) = some (bits 16 0b0100101001001010) := by decide
theorem test_xor_lengths :
    after (.bvXor 4 0 1) ((withReg 0 (zeros 24)).writeB 1 (zeros 16)) (fun t => (report t, t.readB 4)) =
      some ((2, 0), []) := by decide
theorem test_pack :
    after (.bvPack 2 0x100) (withReg 2 (bits 18 0b110010100100101010)) (fun t => (t.BUF, t.RES)) =
      some ([(0x100, 0xCA), (0x101, 0x4A), (0x102, 0x02)], 3) := by decide
theorem test_pack_range :
    after (.bvPack 0 0x1000) (withReg 0 (bits 3 0b101)) (fun t => (faultReport t, t.BUF)) =
      some ((0x85, 0x1000), []) := by decide
theorem test_store :
    after (.bvStore 0 7) (withReg 0 (bits 3 0b101)) (fun t => (t.BUF, t.RES)) =
      some ([(7, 1), (8, 0), (9, 1)], 3) := by decide
theorem test_store_empty :
    after (.bvStore 0 0x1000) State.reset (fun t => (t.BUF, t.RES, t.FAULT)) = some ([], 0, 0) := by decide
theorem test_len :
    after (.bvLen 2) (withReg 2 (bits 18 0b110010100100101010)) (fun t => t.RES) = some 0x12 := by decide

/-! ### DESU: the checks of R149, the components (V20 to V25), and the commands (V1, V10 to V17) -/

theorem test_tables_sums :
    tableIP.sum = 2080 ∧ tableFP.sum = 2080 ∧ tableE.sum = 792 ∧ tableP.sum = 528 ∧ tablePC1.sum = 1792 ∧
      tablePC2.sum = 1352 ∧ shiftAmounts.sum = 28 := by decide
theorem test_tables_permutations :
    (tableIP.Nodup ∧ tableIP.length = 64 ∧ ∀ t ∈ tableIP, 1 ≤ t ∧ t ≤ 64) ∧
      (tableFP.Nodup ∧ tableFP.length = 64 ∧ ∀ t ∈ tableFP, 1 ≤ t ∧ t ≤ 64) ∧
      (tableP.Nodup ∧ tableP.length = 32 ∧ ∀ t ∈ tableP, 1 ≤ t ∧ t ≤ 32) := by decide
theorem test_tables_compressions :
    tablePC1.Nodup ∧ tablePC2.Nodup ∧ tablePC1.length = 56 ∧ tablePC2.length = 48 ∧
      (∀ t ∈ [8, 16, 24, 32, 40, 48, 56, 64], t ∉ tablePC1) ∧
      (∀ t ∈ [9, 18, 22, 25, 35, 38, 43, 54], t ∉ tablePC2) := by decide
theorem test_sbox_rows :
    ∀ table ∈ substitutionTables, table.length = 4 ∧ ∀ row ∈ table, row.length = 16 ∧ ∀ v, v < 16 → v ∈ row := by
  decide
theorem test_permute :
    permute 64 tableIP (0x0000000000000001 : BitVec 64) = 0x0000008000000000 ∧
      permute 64 tableIP (0x8000000000000000 : BitVec 64) = 0x0000000001000000 ∧
      permute 48 tableE (0xF0AAF0AA : BitVec 32) = 0x7A15557A1555 ∧
      permute 32 tableP (0x00000001 : BitVec 32) = 0x00000800 ∧
      permute 56 tablePC1 (0x8000000000000000 : BitVec 64) = 0x01000000000000 := by decide
theorem test_sbox :
    sbox 0x000000000000 = 0xEFA72C4D ∧ sbox 0xFFFFFFFFFFFF = 0xD9CE3DCB ∧ sbox 0x6C0000000000 = 0x5FA72C4D := by
  decide
theorem test_rotl28 :
    rotl28 0x8000001 1 = 0x0000003 ∧ rotl28 0x8000001 2 = 0x0000006 ∧ rotl28 0x00C0C00 1 = 0x0181800 := by decide
theorem test_schedule :
    (schedule 0x133457799BBCDFF1).toList =
      [0x1B02EFFC7072, 0x79AED9DBC9E5, 0x55FC8A42CF99, 0x72ADD6DB351D, 0x7CEC07EB53A8, 0x63A53E507B2F,
       0xEC84B7F618BC, 0xF78A3AC13BFB, 0xE0DBEBEDE781, 0xB1F347BA464F, 0x215FD3DED386, 0x7571F59467E9,
       0x97C5D1FABA41, 0x5F43B7F2E73A, 0xBF918D3D3F0A, 0xCB3D8B0E17F5] := by decide +kernel
theorem test_loadkey_clears_schedule :
    after (.desLoadKey 0x133457799BBCDFF1)
      { withKey 0x6869 with desScheduled := true, K := schedule 0x6869, RES := 0x68656C6C6F }
      (fun t => (t.desKey, t.desScheduled, t.desValid, t.K.toList.sum, t.RES)) =
      some (0x133457799BBCDFF1, false, true, 0, 0x68656C6C6F) := by decide
theorem test_sched :
    after .desSched (withKey 0x6869) (fun t => (t.desScheduled, t.K[0], t.K[15], t.RES)) =
      some (true, 0x400060004800, 0x401000004020, 0) := by decide +kernel
theorem test_sched_without_key : after .desSched State.reset faultReport = some (0x86, 0x21) := by decide
theorem test_des_enc :
    after (.desEnc 0x00000068656C6C6F) (withKey 0x6869) (fun t => (t.RES, t.desScheduled)) =
      some (0xA74BCE81F3679AEF, true) := by decide +kernel
theorem test_des_enc_without_key :
    after (.desEnc 0) State.reset (fun t => (faultReport t, report t, t.RES)) = some ((0x86, 0x22), (0, 0), 0) := by
  decide
theorem test_des_dec :
    after (.desDec 0x85E813540F0AB405) (withKey 0x133457799BBCDFF1) (fun t => t.RES) = some 0x0123456789ABCDEF := by
  decide +kernel
theorem test_des_dec_without_key : after (.desDec 0) State.reset faultReport = some (0x86, 0x23) := by decide
theorem test_des_zero_key : encryptBlock 0x8000000000000000 (schedule 0) = 0x95F8A5E5DD31D900 := by decide +kernel

/-! ### TRVU (V2, V53 to V60) -/

/-- V2: the source's stream scenario, the updates of TRV.WARMUP and TRV.GEN 40 after its TRV.INIT. -/
theorem test_stream_scenario :
    pack (StreamCore.updates 1192 ⟨loadKeyIv (bits 80 0x80) (zeros 80), 0, []⟩).ks = [0x73, 0xFF, 0x86, 0xEB, 0x38] := by
  decide +kernel

/-- V53: what TRV.INIT loads, and the state after four updates, packed high bit first. -/
theorem test_stream_dense_key :
    let c : StreamCore := ⟨loadKeyIv (bits 80 0xFAA75401AE5B08B5620F) (bits 80 0xC760F9922BC45DF68F28), 0, []⟩
    (List.range 288).map (sBit c.sreg) =
        bits 288 0xFAA75401AE5B08B5620F00063B07CC915E22EFB479400000000000000000000000000007 ∧
      (List.range 288).map (sBit (c.updates 4).sreg) =
        bits 288 0xAFAA75401AE5B08B5620F007E3B07CC915E22EFB47940800000000000000000000000000 := by decide +kernel
theorem test_trv_init :
    after (.trvInit 0 1) ((withReg 0 (bits 80 0x80)).writeB 1 (zeros 80))
      (fun t => ((List.range 288).filter (sBit t.sreg), t.count, t.ks, t.trvValid)) =
      some ([72, 285, 286, 287], 0, [], true) := by decide +kernel
theorem test_trv_init_lengths :
    after (.trvInit 0 1) ((withReg 0 (zeros 24)).writeB 1 (zeros 16)) (fun t => (report t, t.trvValid)) =
        some ((3, 24), false) ∧
      after (.trvInit 0 1) ((withReg 0 (zeros 80)).writeB 1 (zeros 16)) (fun t => (report t, t.trvValid)) =
        some ((4, 16), false) := by decide
theorem test_warmup_capacity :
    after .trvWarmup ({ withStreamAt 1152 [] with cfg := ⟨1151, 4096⟩ }) (fun t => (faultReport t, t.count)) =
      some ((0x84, 0), 1152) := by decide
theorem test_warmup_not_initialized : after .trvWarmup State.reset faultReport = some (0x86, 0x31) := by decide

/-- V54's threshold: the update that starts at count 1151 outputs nothing, the one that starts at 1152 one bit. -/
theorem test_gen_threshold :
    after (.trvGen 2) (withStreamAt 1150 []) (fun t => (t.count, t.ks.length)) = some (1152, 0) ∧
      after (.trvGen 2) (withStreamAt 1151 []) (fun t => (t.count, t.ks.length)) = some (1153, 1) := by decide
theorem test_gen_zero :
    after (.trvGen 0) (withStreamAt 7 []) (fun t => (t.count, t.ks, report t)) = some (7, [], (0, 0)) := by
  decide
theorem test_trv_enc :
    after (.trvEnc 4 2) ((withStreamAt 1192 (bits 40 0x73FF86EB38)).writeB 2 (bits 40 0x6F6C6C6568))
      (fun t => (t.readB 4, t.ks.length)) = some (bits 40 0x1C93EA8E50, 40) := by decide

/-- V57, V87: NotWarmedUp comes before LengthMismatch. -/
theorem test_trv_enc_order :
    after (.trvEnc 4 2) ((withStreamAt 1151 []).writeB 2 (zeros 3)) report = some (5, 0) ∧
      after (.trvEnc 4 2) ((withStreamAt 1152 []).writeB 2 (zeros 1)) report = some (2, 0) := by decide
theorem test_trv_dec :
    after (.trvDec 5 4) ((withStreamAt 1192 (bits 40 0x73FF86EB38)).writeB 4 (bits 40 0x1C93EA8E50))
      (fun t => t.readB 5) = some (bits 40 0x6F6C6C6568) := by decide
theorem test_trv_dec_not_initialized : after (.trvDec 4 0) State.reset faultReport = some (0x86, 0x34) := by
  decide
theorem test_ks :
    after (.trvKs 3) (withStreamAt 1157 (bits 5 0b01110)) (fun t => (t.readB 3, t.ks)) =
      some (bits 5 0b01110, bits 5 0b01110) := by decide
theorem test_ks_not_initialized : after (.trvKs 3) State.reset faultReport = some (0x86, 0x35) := by decide

/-! ### HexCodec (V65 to V67) -/

theorem test_hex_decode :
    hexDecode [0x36, 0x38, 0x36, 0x35, 0x36, 0x43] = [0x68, 0x65, 0x6C] ∧ hexDecode [0x41, 0x42, 0x43] = [0x41, 0x42, 0x43] ∧
      hexDecode [0x30, 0x67] = [0x30, 0x67] ∧ hexDecode [0x66, 0x66] = [0xFF] ∧ hexDecode [] = [] := by decide
theorem test_hex_bits :
    toBitsMsb [0x68, 0x65, 0x6C, 0x6C, 0x6F] = bits 40 0b0110100001100101011011000110110001101111 ∧
      toBitsLsb [0x68, 0x65, 0x6C, 0x6C, 0x6F] = bits 40 0b0110111101101100011011000110010101101000 := by decide
theorem test_hex_encode_and_number :
    encodeUpper [0x00, 0xAB, 0x0F] = [0x30, 0x30, 0x41, 0x42, 0x30, 0x46] ∧
      asU64 [0x68, 0x65, 0x6C, 0x6C, 0x6F] = some 0x00000068656C6C6F ∧
      asU64 [1, 2, 3, 4, 5, 6, 7, 8] = some 0x0102030405060708 ∧ asU64 [] = some 0 := by decide
theorem test_host_marshalling :
    blockBytes 0xA74BCE81F3679AEF = [0xA7, 0x4B, 0xCE, 0x81, 0xF3, 0x67, 0x9A, 0xEF] ∧
      wireWrites 0x100 (bits 3 0b011) = [.writeBuf 0x100 0, .writeBuf 0x101 1, .writeBuf 0x102 1] := by decide

/-! ### Witnesses: states and operands that meet the hypotheses of each statement -/

/-- A running state with everything in use: two registers, a scheduled key, one keystream bit, two bytes of BUF. -/
def busy : State :=
  { ((State.reset.writeB 0 (bits 3 0b101)).writeB 1 (bits 3 0b011)).memWrite 0x40 [1, 2] with
    desKey := 0x133457799BBCDFF1, K := schedule 0x133457799BBCDFF1, desScheduled := true, desValid := true,
    sreg := loadKeyIv (zeros 80) (zeros 80), count := 1153, ks := [true], trvValid := true, RES := 7 }

/-- The same state, halted by an IndexRange fault. -/
def halted : State := { busy with FAULT := 0x82, FINFO := 24 }

theorem halted_port : halted.port = [] := rfl

theorem witness_DecodeInvertsEncode :
    (Instr.bvConstruct 15 (2 ^ 32 - 1) (2 ^ 32 - 1)).wellFormed = true ∧ (Instr.trvGen 0).wellFormed = true := by decide
theorem witness_DecodedWordIsTheEncoding : decode 0x19201000000000000000000000000000 = .ok (.bvXor 2 0 1) := by decide
theorem witness_TableRowFitsItsWords :
    (⟨"BV.LEN", 0xFFF0FFFFFFFFFFFFFFFFFFFFFFFFFFFF, 0x1C000000000000000000000000000000⟩ : OpcodeRow) ∈ opcodeTable := by
  decide

/-- Inside every reserved range at its edges, and not at the edges of the legal ranges. -/
theorem witness_reserved_edges :
    (∀ op ∈ [0x00, 0x0F, 0x1D, 0x1F, 0x24, 0x2F, 0x36, 0xFF], IsReservedOp op) ∧
      ∀ op ∈ [0x10, 0x1C, 0x20, 0x23, 0x30, 0x35], ¬IsReservedOp op := by
  simp [IsReservedOp]

/-- A reserved word, and a word that only an unused field makes illegal. -/
theorem witness_IllegalWordsFault :
    busy.FAULT = 0 ∧ (busy.withCommand 0).port = .command 0 :: [] ∧
      IsReservedOp (BitVec.extractLsb' 120 8 (0 : CmdWord)).toNat ∧
      ∀ row ∈ opcodeTable, row.fits 0x14200200000000000000000000000000 = false :=
  ⟨rfl, rfl, .inl (by decide), by decide⟩
theorem witness_StepRunsTheDecodedCommand :
    busy.FAULT = 0 ∧ (busy.withCommand 0x1C000000000000000000000000000000).port =
      .command 0x1C000000000000000000000000000000 :: [] ∧
      decode 0x1C000000000000000000000000000000 = .ok (.bvLen 0) := by decide
theorem witness_HaltedBlockIgnoresCommands :
    halted.FAULT ≠ 0 ∧ (halted.withCommand 0).port = .command 0 :: [] ∧
      { halted with port := [.writeBuf 4095 1] }.port = .writeBuf 4095 1 :: [] ∧ 4095 < halted.cfg.bufBytes ∧
      step halted = .next halted ∧ (∀ rest, halted.port ≠ .reset :: rest) ∧
      { halted with port := [.reset] }.port = .reset :: [] :=
  ⟨by decide, rfl, rfl, by decide, step_idle rfl, by rw [halted_port]; simp, rfl⟩
theorem witness_OnlyResetClearsFaultAndValidFlags :
    step halted = .next halted ∧ (∀ rest, halted.port ≠ .reset :: rest) ∧ halted.FAULT ≠ 0 ∧ halted.desValid = true ∧
      halted.trvValid = true :=
  ⟨step_idle rfl, by rw [halted_port]; simp, by decide, rfl, rfl⟩
theorem witness_ResetClearsEveryPieceOfState :
    { halted with port := [.reset, .writeBuf 0 1] }.port = .reset :: [.writeBuf 0 1] := rfl
theorem witness_HostWriteChangesOneByte :
    { busy with port := [.writeBuf 4095 1] }.port = .writeBuf 4095 1 :: [] ∧ 4095 < busy.cfg.bufBytes ∧
      { busy with port := [.writeBuf 4096 1] }.port = .writeBuf 4096 1 :: [] ∧ busy.cfg.bufBytes ≤ 4096 := by
  decide

/-- The two ends that a state by itself decides (R240): a running and a halted state. -/
theorem witness_CommandsRaiseOnlyWhatTheyMay : busy.FAULT = 0 ∧ halted.FAULT ≠ 0 := by decide
theorem witness_OnlyTheDestinationRegisterChanges :
    exec (.bvXor 2 0 1) busy = .next (busy.writeB 2 (bits 3 0b110)) ∧ destReg (.bvXor 2 0 1) ≠ some 0 :=
  ⟨exec_of_after (by decide +kernel), by decide⟩

/-- A command that stores, with the addresses just below and just above its bytes, and one that does not. -/
theorem witness_OnlyStoresChangeMemory :
    exec (.bvPack 0 0x41) busy = .next ((busy.memWrite 0x41 [5]).writeRes 1) ∧
      (0x40 < 0x41 ∧ 0x41 + ((busy.readB 0).length + 7) / 8 ≤ 0x42) ∧
      exec (.bvStore 0 0xFFD) busy = .next ((busy.memWrite 0xFFD [1, 0, 1]).writeRes 3) ∧
      0xFFD + (busy.readB 0).length ≤ 0x1000 ∧
      exec (.bvLen 0) busy = .next (busy.writeRes 3) :=
  ⟨exec_of_after (by decide +kernel), by decide +kernel, exec_of_after (by decide +kernel), by decide +kernel,
    exec_of_after (by decide +kernel)⟩

/-- A command that never writes RES, one that ends in an error, one that ends in a fault. -/
theorem witness_ResChangesOnlyByResultCommands :
    exec (.bvRevi 0) busy = .next busy ∧ writesRes (.bvRevi 0) = false ∧
      exec (.bvXor 2 0 5) busy = .next { busy with STATUS := 2 } ∧ { busy with STATUS := 2 }.STATUS ≠ 0 ∧
      exec (.bvGet 0 3) busy = .next { busy with FAULT := 0x82, FINFO := 3 } ∧
      { busy with FAULT := 0x82, FINFO := 3 }.FAULT ≠ 0 :=
  ⟨exec_of_after (by decide +kernel), rfl, exec_of_after (by decide +kernel), by decide +kernel,
    exec_of_after (by decide +kernel), by decide +kernel⟩
theorem witness_EnginesDoNotInteract :
    exec (.bvLen 0) busy = .next (busy.writeRes 3) ∧ isDes (.bvLen 0) = false ∧ clocksStream (.bvLen 0) = false :=
  ⟨exec_of_after (by decide +kernel), rfl, rfl⟩
theorem witness_SecretsAreNotReadBack :
    exec .desSched busy = .next busy ∧ ∀ block, Instr.desSched ≠ .desEnc block ∧ Instr.desSched ≠ .desDec block :=
  ⟨exec_of_after (by decide +kernel), fun _ => ⟨nofun, nofun⟩⟩

/-- The state `busy` meets the invariant: it holds of states with everything in use. -/
theorem witness_invariant : busy.Inv where
  params := by decide
  bufCanonical := by decide
  bufInside := by decide
  regsFit := by decide
  ksFits := by decide
  ksLength := by decide
  subkeysNarrow := by
    intro k hk
    obtain ⟨C, D, rfl⟩ := mem_subkeysFrom ((schedule_toList 0x133457799BBCDFF1) ▸ hk)
    exact subkeyOf_narrow C D
  scheduleFresh := by decide +kernel
  scheduledLoaded := by decide
  statusCode := by decide
  infoOnSuccess := by decide
  faultCode := .inl (by decide)
  finfoWithoutFault := by decide
theorem witness_StepKeepsTheInvariant : busy.Inv ∧ step busy = .next busy := ⟨witness_invariant, step_idle rfl⟩

/-- Clause by clause: the range ends one past BUF; it fits BUF but not BV_CAP = 80; a bad byte after a good one; good bytes. -/
theorem witness_ConstructReadsWireBits :
    busy.FAULT = 0 ∧ busy.cfg.bufBytes < 0xFFF + 2 ∧
      (withCfg 80 81).FAULT = 0 ∧ 0 + 81 ≤ (withCfg 80 81).cfg.bufBytes ∧ (withCfg 80 81).cfg.bvCap < 81 ∧
      (0x40 + 2 ≤ busy.cfg.bufBytes ∧ 2 ≤ busy.cfg.bvCap ∧ (∀ k, k < 2 → busy.BUF.read? (0x40 + k) = [(1 : Byte), 2][k]?)) ∧
      ([(1 : Byte), 2][1]? = some 2 ∧ (2 : Byte) ≠ 0 ∧ (2 : Byte) ≠ 1 ∧
        ∀ (j : Nat) (y : Byte), j < 1 → [(1 : Byte), 2][j]? = some y → y = 0 ∨ y = 1) ∧
      ((∀ k, k < 1 → busy.BUF.read? (0x40 + k) = [(1 : Byte)][k]?) ∧ ∀ y ∈ [(1 : Byte)], y = 0 ∨ y = 1) ∧
      (0x1000 + 0 ≤ busy.cfg.bufBytes ∧ ∀ k, k < 0 → busy.BUF.read? (0x1000 + k) = ([] : List Byte)[k]?) := by
  refine ⟨by decide, by decide, by decide, by decide, by decide, by decide,
    ⟨rfl, by decide, by decide, ?_⟩, by decide, by decide⟩
  intro j y hj h
  obtain rfl : j = 0 := by omega
  simp at h
  exact .inr h.symm

/-- A range that ends at BUF's end, with one byte written and one not. -/
theorem witness_ConstructTakesAnyValueForUnwrittenBytes :
    let s := withBuf 0xFFF [1]
    s.FAULT = 0 ∧ 0xFFE + 2 ≤ s.cfg.bufBytes ∧ 2 ≤ s.cfg.bvCap ∧ (1 < 2 ∧ s.BUF.read? (0xFFE + 1) = some 1) ∧
      s.BUF.read? (0xFFE + 0) = none := by decide
theorem witness_GetReadsOneBit :
    busy.FAULT = 0 ∧ (busy.readB 0)[2]? = some true ∧ (busy.readB 0)[1]? = some false ∧ (busy.readB 0).length ≤ 3 := by
  decide
theorem witness_SetReplacesOneBit :
    busy.FAULT = 0 ∧ 2 < (busy.readB 0).length ∧ 0 ≠ 2 ∧ (busy.readB 0).length ≤ 3 := by decide

/-- Index len is inside, len + 1 outside; a full register of a block with BV_CAP = 80. -/
theorem witness_InsertMovesTheTailUp :
    busy.FAULT = 0 ∧ (busy.readB 0).length < 4 ∧
      (3 ≤ (busy.readB 0).length ∧ (busy.readB 0).length + 1 ≤ busy.cfg.bvCap) ∧ 0 < 3 ∧
      (let full := (withCfg 80 1).writeB 0 (zeros 80)
       full.FAULT = 0 ∧ 80 ≤ (full.readB 0).length ∧ full.cfg.bvCap < (full.readB 0).length + 1) := by decide
theorem witness_AppendAddsAfterTheTail :
    busy.FAULT = 0 ∧ (busy.readB 0).length + 1 ≤ busy.cfg.bvCap ∧ 2 < (busy.readB 0).length ∧
      (let full := (withCfg 80 1).writeB 0 (zeros 80)
       full.FAULT = 0 ∧ full.cfg.bvCap < (full.readB 0).length + 1) := by decide
theorem witness_ShiftLeftAppendsZeros :
    busy.FAULT = 0 ∧ (busy.readB 0).length + 4093 ≤ busy.cfg.bvCap ∧ 2 < (busy.readB 0).length ∧
      ((busy.readB 0).length ≤ 3 ∧ 3 < (busy.readB 0).length + 4093) ∧
      busy.cfg.bvCap < (busy.readB 0).length + 4094 := by decide
theorem witness_ShiftRightKeepsTheLength :
    busy.FAULT = 0 ∧ 3 ≤ (busy.readB 0).length ∧ 2 < 3 ∧ (2 ≤ 2 ∧ 2 < (busy.readB 0).length) ∧
      (busy.readB 0).length < 4 := by decide

/-- A bit of the short last chunk and the last bit of the whole chunk before it, in a sequence of 11 bits. -/
theorem witness_ReverseOrdersChunksBackwards :
    busy.FAULT = 0 ∧ (2 < 8 ∧ 8 * 1 + 2 < (bits 11 0x7F5).length) ∧ (7 < 8 ∧ 8 * 0 + 7 < (bits 11 0x7F5).length) := by
  decide
theorem witness_ReverseTwiceOnWholeChunks : (bits 16 0x165C).length % 8 = 0 ∧ ([] : BitSeq).length % 8 = 0 := by decide
theorem witness_XorIsElementwise :
    busy.FAULT = 0 ∧ (busy.readB 0).length ≠ (busy.readB 5).length ∧ (busy.readB 0).length = (busy.readB 1).length ∧
      (busy.readB 0)[2]? = some true ∧ (busy.readB 1)[2]? = some true := by decide
theorem witness_XorLaws :
    busy.FAULT = 0 ∧ (bits 3 5).length = (bits 3 3).length ∧ (bits 3 3).length = (bits 3 6).length := by decide

/-- The range that ends at BUF's end and the one that ends one past it; a bit of a byte with 3 bits, and its first zero. -/
theorem witness_PackStoresBytesMsbFirst :
    busy.FAULT = 0 ∧ 0xFFF + ((busy.readB 0).length + 7) / 8 ≤ busy.cfg.bufBytes ∧
      busy.cfg.bufBytes < 0x1000 + ((busy.readB 0).length + 7) / 8 ∧
      (pack (busy.readB 0))[0]? = some 5 ∧ 2 < min 8 ((busy.readB 0).length - 8 * 0) ∧
      min 8 ((busy.readB 0).length - 8 * 0) ≤ 3 := by decide
theorem witness_StoreWritesWireBytes :
    busy.FAULT = 0 ∧ 0xFFD + (busy.readB 0).length ≤ busy.cfg.bufBytes ∧ (busy.readB 0).length ≤ busy.cfg.bvCap ∧
      (busy.readB 0)[2]? = some true ∧ busy.cfg.bufBytes < 0xFFE + (busy.readB 0).length := by decide
theorem witness_LenReadsTheLength : busy.FAULT = 0 := by decide
theorem witness_ShiftsAreNotInverse : busy.FAULT = 0 ∧ (busy.readB 0).length + 4093 ≤ busy.cfg.bvCap := by decide

theorem witness_PermuteGathersBits :
    (∀ t ∈ tableE, 1 ≤ t ∧ t ≤ 32) ∧ 1 ≤ 48 ∧ tableE[48 - 1]? = some 1 ∧ tableE[1 - 1]? = some 32 := by decide
theorem witness_SboxUsesEachTable : (1 ≤ 1 ∧ 1 ≤ 8) ∧ (1 ≤ 8 ∧ 8 ≤ 8) := by decide
theorem witness_FeistelRoundInverts :
    feistelRound (0xF800F090, 0x00F8E880) 0x400060004800 = (0x00F8E880, 0xA1008FBB) := by decide +kernel
theorem witness_ScheduleAccumulatesRotations : 0 < 16 ∧ 15 < 16 := by decide

/-- The pairs of halves of V10: the block 0 under subkeys that are all 0. -/
def zeroRounds : Nat → BitVec 32 × BitVec 32
  | 0 => (0, 0)
  | j + 1 => feistelRound (zeroRounds j) 0
theorem witness_BlockRunsSixteenRounds :
    (zeroRounds 0).1 ++ (zeroRounds 0).2 = permute 64 tableIP (0 : BitVec 64) ∧
      ∀ (j : Nat) (k : BitVec 64), (Vector.replicate 16 (0 : BitVec 64))[j]? = some k →
        (zeroRounds (j + 1)).1 = (zeroRounds j).2 ∧
          (zeroRounds (j + 1)).2 = (zeroRounds j).1 ^^^
            permute 32 tableP (sbox (permute 48 tableE (zeroRounds j).2 ^^^ k.extractLsb' 0 48)) := by
  refine ⟨by decide, fun j k h => ?_⟩
  obtain ⟨_, rfl⟩ := Vector.getElem?_eq_some_iff.1 h
  rw [Vector.getElem_replicate]
  exact ⟨rfl, rfl⟩
theorem witness_EightKeyBitsAreIgnored :
    ∀ n, n % 8 ≠ 0 → (0x0101010101010101 : BitVec 64).getLsbD n = (0 : BitVec 64).getLsbD n := by
  have h : ∀ n, n < 64 → n % 8 ≠ 0 → (0x0101010101010101 : BitVec 64).getLsbD n = false := by decide
  intro n hn
  by_cases h64 : n < 64
  · rw [h n h64 hn]; simp
  · simp [BitVec.getLsbD_of_ge _ _ (Nat.le_of_not_lt h64)]
theorem witness_BlockCipherRoundTrip : busy.FAULT = 0 ∧ busy.desValid = true := by decide
theorem witness_LoadKeyMakesANewEngine : busy.FAULT = 0 := by decide
theorem witness_SchedComputesOnce :
    (State.reset.FAULT = 0 ∧ State.reset.desValid = false) ∧
      ((withKey 5).FAULT = 0 ∧ (withKey 5).desValid = true ∧ (withKey 5).desScheduled = false) ∧
      (busy.FAULT = 0 ∧ busy.desValid = true ∧ busy.desScheduled = true) := by decide
theorem witness_BlockCommandsUseTheSchedule :
    (State.reset.FAULT = 0 ∧ State.reset.desValid = false) ∧ (busy.FAULT = 0 ∧ busy.desValid = true) := by decide
theorem witness_SubkeyCacheIsInvisible : busy.Inv ∧ busy.FAULT = 0 ∧ busy.desValid = true :=
  ⟨witness_invariant, by decide, by decide⟩

theorem witness_UpdateIsTheTransition : 0 < 288 ∧ 93 < 288 ∧ 177 < 288 ∧ 287 < 288 := by decide

/-- Length 79 for the key, 81 for the IV, 80 for both; the first and last index of each range. -/
theorem witness_InitLoadsKeyAndIv :
    busy.FAULT = 0 ∧ ((withReg 0 (zeros 79)).readB 0).length ≠ 80 ∧
      (let s := (withReg 0 (zeros 80)).writeB 1 (zeros 81)
       s.FAULT = 0 ∧ (s.readB 0).length = 80 ∧ (s.readB 1).length ≠ 80) ∧
      ((withReg 0 (zeros 80)).FAULT = 0 ∧ ((withReg 0 (zeros 80)).readB 0).length = 80) ∧
      (0 < 80 ∧ 79 < 80) ∧ (285 ≤ 285 ∧ 287 < 288) ∧ (80 ≤ 80 ∧ 92 < 93) ∧ (173 ≤ 173 ∧ 284 < 285) := by decide

/-- For TRV.GEN and TRV.WARMUP: not initialised; the new bits just fit; they are one too many. -/
theorem witness_GenerateRunsUpdates :
    (State.reset.FAULT = 0 ∧ State.reset.trvValid = false) ∧
      (busy.FAULT = 0 ∧ busy.trvValid = true) ∧
      (((4095 : Nat) : Int) = max 0 ((busy.count : Int) + (4095 : Nat) - max busy.count 1152) ∧
        busy.ks.length + 4095 ≤ busy.cfg.bvCap) ∧
      (((4096 : Nat) : Int) = max 0 ((busy.count : Int) + (4096 : Nat) - max busy.count 1152) ∧
        busy.cfg.bvCap < busy.ks.length + 4096) ∧
      (((1152 : Nat) : Int) = max 0 ((busy.count : Int) + 1152 - max busy.count 1152) ∧
        busy.ks.length + 1152 ≤ busy.cfg.bvCap) ∧
      (let s : State := { withStreamAt 1152 [] with cfg := ⟨1151, 1⟩ }
       s.FAULT = 0 ∧ s.trvValid = true ∧ ((1152 : Nat) : Int) = max 0 ((s.count : Int) + 1152 - max s.count 1152) ∧
         s.cfg.bvCap < s.ks.length + 1152) := by decide
theorem witness_GenerationSplits :
    busy.FAULT = 0 ∧ busy.trvValid = true ∧ busy.ks.length + producedBits busy.count (4000 + 95) ≤ busy.cfg.bvCap := by
  decide

/-- Not initialised; count 1151; count 1153 with another length; count 1153 with the length of the keystream. -/
theorem witness_StreamCommandsXorTheKeystream :
    (State.reset.FAULT = 0 ∧ State.reset.trvValid = false) ∧
      ((withStreamAt 1151 []).FAULT = 0 ∧ (withStreamAt 1151 []).trvValid = true ∧ (withStreamAt 1151 []).count < 1152) ∧
      ((withStreamAt 1152 []).trvValid = true ∧ 1152 ≤ (withStreamAt 1152 []).count ∧
        ((withStreamAt 1152 []).readB 0).length = (withStreamAt 1152 []).ks.length) ∧
      (busy.FAULT = 0 ∧ busy.trvValid = true ∧ 1152 ≤ busy.count ∧ (busy.readB 0).length ≠ busy.ks.length) ∧
      (let s := busy.writeB 0 [true]
       s.FAULT = 0 ∧ s.trvValid = true ∧ 1152 ≤ s.count ∧ (s.readB 0).length = s.ks.length ∧ (s.readB 0)[0]? = some true ∧
         s.ks[0]? = some true) := by decide
theorem witness_KsCopiesTheBuffer :
    (State.reset.FAULT = 0 ∧ State.reset.trvValid = false) ∧ (busy.FAULT = 0 ∧ busy.trvValid = true) := by decide
theorem witness_StreamCipherRoundTrip :
    (let s := busy.writeB 0 [true]
     s.FAULT = 0 ∧ s.trvValid = true ∧ 1152 ≤ s.count ∧ (s.readB 0).length = s.ks.length) ∧
      ((withStreamAt 1151 []).FAULT = 0 ∧ (withStreamAt 1151 []).trvValid = true ∧ (withStreamAt 1151 []).count < 1152) := by
  decide
theorem witness_MsbExpansionIsUndoneByPacking :
    [(0x68 : Byte), 0x65][1]? = some 0x65 ∧ 7 < 8 ∧ (bits 16 0x6865).length % 8 = 0 := by decide
theorem witness_LsbExpansionIsChunkReversal : [(0x68 : Byte), 0x65].reverse[1]? = some 0x68 ∧ 7 < 8 := by decide

/-- A command, an illegal word, and a command to a halted block. -/
theorem witness_EveryCommandIsASingleStep :
    (busy.withCommand 0x1C000000000000000000000000000000).port = .command 0x1C000000000000000000000000000000 :: [] ∧
      (busy.withCommand 0).port = .command 0 :: [] ∧
      (halted.withCommand 0x1C000000000000000000000000000000).port =
        .command 0x1C000000000000000000000000000000 :: [] := by decide

end Sys2Proof.Tests
end

section
/-! PROOFS. Frames: what a command leaves unchanged, as an observation of the state that its effect leaves as it is. -/

namespace Sys2Proof.Machine

/-- An observation that reads none of the report registers STATUS, INFO, FAULT and FINFO, and that a command's effect leaves as
it is, is left as it is by the command, however it ends (60_exceptions.md R240, R243, R244). -/
theorem exec_keeps {α : Type} (obs : State → α) {s t : State} {i : Instr}
    (hstatus : ∀ (u : State) x y, obs { u with STATUS := x, INFO := y } = obs u)
    (hfault : ∀ (u : State) x y, obs { u with FAULT := x, FINFO := y } = obs u)
    (heffect : obs (commandEffect s i) = obs s) (h : exec i s = .next t) : obs t = obs s := by
  obtain ⟨-, rfl⟩ | ⟨-, ⟨e, info, rfl⟩ | ⟨f, info, rfl⟩ | ⟨-, rfl⟩⟩ := exec_next h
  case inl => rfl
  case inr.inl => exact hstatus ..
  case inr.inr.inl => exact hfault ..
  case inr.inr.inr => exact (hstatus ..).trans heffect

/-- The state of the DESU (10_state.md R28, R24). -/
def State.desState (s : State) : BitVec 64 × Vector (BitVec 64) 16 × Bool × Bool :=
  (s.desKey, s.K, s.desScheduled, s.desValid)

/-- The state of the TRVU (10_state.md R29, R24). -/
def State.trvState (s : State) : StreamCore × Bool := (s.stream, s.trvValid)

/-- The model's own fields (notes/assumptions/1.md, 3.md, 4.md). -/
def State.modelState (s : State) : Params × List HostAction × Nat := (s.cfg, s.port, s.resets)

/-- Only a DESU command's effect is on the DESU. -/
theorem commandEffect_desState (s : State) {i : Instr} (hi : isDes i = false) :
    (commandEffect s i).desState = s.desState := by
  cases i with
  | desLoadKey _ | desSched | desEnc _ | desDec _ => cases hi
  | _ => rfl

/-- Only the effects of TRV.INIT, TRV.WARMUP and TRV.GEN are on the TRVU; the DES schedule is not. -/
theorem commandEffect_trvState (s : State) {i : Instr} (hi : clocksStream i = false) :
    (commandEffect s i).trvState = s.trvState := by
  cases i with
  | trvInit _ _ | trvWarmup | trvGen _ => cases hi
  | desSched | desEnc _ | desDec _ => simp [commandEffect, State.trvState, State.stream]
  | _ => rfl

/-- No command's effect is on the model's own fields. -/
theorem commandEffect_modelState (s : State) (i : Instr) : (commandEffect s i).modelState = s.modelState := by
  cases i with
  | desSched | desEnc _ | desDec _ => simp [commandEffect, State.modelState]
  | _ => rfl

/-- Settles O15: each of the three parts of the state is an observation that reads no report register, so a command keeps it
when its effect does. -/
theorem enginesDoNotInteract : Obligations.EnginesDoNotInteract := by
  intro i s t h
  refine ⟨fun hi => ?desu, fun hi => ?trvu, ?model⟩
  case desu =>
    have hdes : t.desState = s.desState :=
      exec_keeps State.desState (fun _ _ _ => rfl) (fun _ _ _ => rfl) (commandEffect_desState s hi) h
    simpa [State.desState] using hdes
  case trvu =>
    have htrv : t.trvState = s.trvState :=
      exec_keeps State.trvState (fun _ _ _ => rfl) (fun _ _ _ => rfl) (commandEffect_trvState s hi) h
    simpa [State.trvState, State.stream, and_assoc] using htrv
  case model =>
    have hmodel : t.modelState = s.modelState :=
      exec_keeps State.modelState (fun _ _ _ => rfl) (fun _ _ _ => rfl) (commandEffect_modelState s i) h
    simpa [State.modelState] using hmodel

end Sys2Proof.Machine
end

section
/-! PROOFS. What a reset leaves, and what a step with each kind of host action can answer (10_state.md R23, R33). -/

namespace Sys2Proof.Machine

/-- Reset has the values of R33, whatever the parameters, the number of resets and the remaining host actions. -/
theorem afterReset_resetWith (cfg : Params) (n : Nat) (port : List HostAction) :
    AfterReset (State.resetWith cfg n port) where
  registers := State.readB_resetWith cfg n port
  desKey := rfl
  subkeys := fun _ hk => List.eq_of_mem_replicate (Vector.toList_replicate ▸ hk)
  desScheduled := rfl
  desValid := rfl
  sreg := rfl
  count := rfl
  ks := rfl
  trvValid := rfl
  report := ⟨rfl, rfl, rfl⟩
  faultReport := ⟨rfl, rfl⟩
  buf := fun _ => rfl

/-- Everything the issue of a word can answer: nothing changes (R245), IllegalCommand, or a command's meaning (R83). -/
theorem State.issue_next {s t : State} {w : CmdWord} (h : s.issue w = .next t) :
    t = s ∨ t = { s with FAULT := BlockFault.illegalCommand.code, FINFO := illegalInfo w } ∨
      ∃ i, exec i s = .next t := by
  obtain ⟨-, rfl⟩ | ⟨-, h⟩ := State.unlessHalted_next.1 h
  · exact .inl rfl
  · cases hd : decode w with
    | error _ => exact .inr (.inl (State.takeFault_next.1 (by simpa only [hd] using h)))
    | ok i => exact .inr (.inr ⟨i, by simpa only [hd] using h⟩)

/-- Settles O9: the initial state and the answer of a reset step are both `State.resetWith`. -/
theorem resetClearsEveryPieceOfState : Obligations.ResetClearsEveryPieceOfState :=
  ⟨afterReset_resetWith .., fun _ _ hport => ⟨_, step_reset hport, afterReset_resetWith ..⟩⟩

/-- Settles O10: the step is the host write of the state without that action, and a read after a write is by address. -/
theorem hostWriteChangesOneByte : Obligations.HostWriteChangesOneByte := by
  intro s a y rest hport
  rw [step_writeBuf hport]
  refine ⟨fun ha => ⟨_, State.hostWrite_next.2 ⟨ha, rfl⟩, ?written, fun a' ha' => ?others, rfl⟩, fun ha => ?outside⟩
  case written => simp [Memory.read?_write]
  case others => simp [Memory.read?_write, ha']
  case outside => simp [State.hostWrite, Nat.not_lt.2 ha]

end Sys2Proof.Machine
end

section
/-! PROOFS. The invariant of reachable states: one rule for each update of the state, from them the commands, from these the
step. -/

namespace Sys2Proof.Machine

/-- Bits 63:48 of every computed subkey are 0 (10_state.md R28). -/
theorem schedule_narrow {key k : BitVec 64} (hk : k ∈ (schedule key).toList) : k.extractLsb' 48 16 = 0 := by
  obtain ⟨C, D, rfl⟩ := mem_subkeysFrom (schedule_toList key ▸ hk)
  exact subkeyOf_narrow C D

/-- Bits 63:48 of the cleared subkeys are 0. -/
theorem zeroSubkeys_narrow {k : BitVec 64} (hk : k ∈ (Vector.replicate 16 (0 : BitVec 64)).toList) :
    k.extractLsb' 48 16 = 0 := by
  have hzero : k = 0 := List.eq_of_mem_replicate (Vector.toList_replicate ▸ hk)
  rw [hzero]
  decide

/-- Every state right after reset meets the invariant, if its parameters are in range. -/
theorem State.inv_resetWith {cfg : Params} (hcfg : cfg.wf) (n : Nat) (port : List HostAction) :
    (State.resetWith cfg n port).Inv where
  params := hcfg
  bufCanonical := List.Pairwise.nil
  bufInside := nofun
  regsFit := fun r => by simp
  ksFits := Nat.zero_le _
  ksLength := (Nat.zero_sub _).symm
  subkeysNarrow := fun _ => zeroSubkeys_narrow
  scheduleFresh := nofun
  scheduledLoaded := nofun
  statusCode := by simp [State.resetWith]
  infoOnSuccess := fun _ => rfl
  faultCode := .inl rfl
  finfoWithoutFault := fun _ => rfl

/-- STATUS codes are at most 5 and not 0 (R241). -/
theorem CmdError.code_toNat_le (e : CmdError) : e.code.toNat ≤ 5 := by cases e <;> decide

theorem CmdError.code_ne_zero (e : CmdError) : e.code ≠ 0 := by cases e <;> decide

theorem BlockFault.code_ne_zero (f : BlockFault) : f.code ≠ 0 := by cases f <;> decide

section
variable {s : State} (hs : s.Inv)
include hs

/-- The invariant does not speak of the host's remaining actions. -/
theorem State.Inv.withPort (port : List HostAction) : State.Inv { s with port := port } := { hs with }

theorem State.Inv.succeeded : State.Inv { s with STATUS := 0, INFO := 0 } :=
  { hs with statusCode := Nat.zero_le 5, infoOnSuccess := fun _ => rfl }

theorem State.Inv.erred (e : CmdError) (info : BitVec 32) : State.Inv { s with STATUS := e.code, INFO := info } :=
  { hs with statusCode := e.code_toNat_le, infoOnSuccess := fun h => absurd h e.code_ne_zero }

theorem State.Inv.faulted (f : BlockFault) (info : BitVec 32) : State.Inv { s with FAULT := f.code, FINFO := info } :=
  { hs with faultCode := .inr ⟨f, rfl⟩, finfoWithoutFault := fun h => absurd h f.code_ne_zero }

theorem State.Inv.writeRes (x : BitVec 64) : (s.writeRes x).Inv := { hs with }

/-- A register write keeps the invariant if the sequence fits (10_state.md R21). -/
theorem State.Inv.writeB (r : BReg) {v : BitSeq} (hv : v.length ≤ s.cfg.bvCap) : (s.writeB r v).Inv :=
  { hs with
    regsFit := fun q => by
      by_cases hq : q = r
      · rw [hq, State.readB_writeB_self]; exact hv
      · rw [State.readB_writeB_of_ne s v hq]; exact hs.regsFit q }

/-- A store keeps the invariant if its bytes are inside BUF (20_memory.md R50). -/
theorem State.Inv.memWrite {addr : Nat} {ys : List Byte} (hin : addr + ys.length ≤ s.cfg.bufBytes) :
    (s.memWrite addr ys).Inv :=
  { hs with
    bufCanonical := Memory.wf_writeBytes hs.bufCanonical addr ys
    bufInside := fun c hc =>
      (Memory.mem_writeBytes hc).elim (fun hnew => Nat.lt_of_lt_of_le hnew.2 hin) (hs.bufInside c) }

/-- A new key keeps the invariant: the cache is cleared and nothing is scheduled (42_des_engine.md R167). -/
theorem State.Inv.loadKey (key : BitVec 64) :
    State.Inv { s with desKey := key, K := Vector.replicate 16 0, desScheduled := false, desValid := true } :=
  { hs with subkeysNarrow := fun _ => zeroSubkeys_narrow, scheduleFresh := nofun, scheduledLoaded := nofun }

/-- Computing the subkeys of a loaded key keeps the invariant (42_des_engine.md R168). -/
theorem State.Inv.ensureSchedule (hvalid : s.desValid = true) : s.ensureSchedule.Inv := by
  unfold State.ensureSchedule
  split
  · exact hs
  · exact { hs with
      subkeysNarrow := fun _ => schedule_narrow, scheduleFresh := fun _ => rfl, scheduledLoaded := fun _ => hvalid }

/-- A new stream engine keeps the invariant: no update, no keystream (43_trivium_engine.md R193). -/
theorem State.Inv.initStream (sreg : BitVec 288) :
    State.Inv { s with sreg := sreg, count := 0, ks := [], trvValid := true } :=
  { hs with ksFits := Nat.zero_le _, ksLength := (Nat.zero_sub _).symm }

/-- n updates keep the invariant if the keystream fits (43_trivium_engine.md R195, R203). -/
theorem State.Inv.updates {n : Nat} (hfit : s.ks.length + producedBits s.count n ≤ s.cfg.bvCap) :
    (s.withStream (s.stream.updates n)).Inv := by
  obtain ⟨hcount, hks⟩ := StreamCore.updates_lengths n s.stream
  have hold : s.stream.ks.length = s.stream.count - warmupThreshold := hs.ksLength
  exact { hs with
    ksFits := hks.trans_le hfit
    ksLength := by
      rw [State.withStream_ks, State.withStream_count, hks, hcount, producedBits]
      omega }

/-- A command whose checks hold has an effect that keeps the invariant. -/
theorem State.Inv.commandEffect {i : Instr} (hc : commandChecks s i) : (commandEffect s i).Inv := by
  cases i with
  | bvConstruct rd n addr => exact hs.writeB rd (by simpa using hc.2)
  | bvSet rd i bit =>
    have hi : i < (s.readB rd).length := hc
    have hrd := hs.regsFit rd
    refine hs.writeB rd ?_
    simp only [List.length_append, slice_length, List.length_singleton]
    omega
  | bvInsert rd i bit =>
    obtain ⟨hi, hcap⟩ := hc
    refine hs.writeB rd ?_
    simp only [List.length_append, slice_length, List.length_singleton]
    omega
  | bvAppend rd bit => exact hs.writeB rd (List.length_append.trans_le hc)
  | bvShl rd n => exact hs.writeB rd (by simpa [commandChecks] using hc)
  | bvShr rd n =>
    have hn : n ≤ (s.readB rd).length := hc
    have hrd := hs.regsFit rd
    refine hs.writeB rd ?_
    simp only [List.length_append, slice_length, zeros_length, rotr_length]
    omega
  | bvRev rd ra => exact hs.writeB rd (by simpa using hs.regsFit ra)
  | bvRevi rd => exact hs.writeB rd (by simpa using hs.regsFit rd)
  | bvXor rd ra _ | trvEnc rd ra | trvDec rd ra =>
    exact hs.writeB rd (xorSeq_length .. ▸ (Nat.min_le_left ..).trans (hs.regsFit ra))
  | trvKs rd => exact hs.writeB rd hs.ksFits
  | bvGet _ _ | bvLen _ => exact hs.writeRes _
  | bvPack _ _ | bvStore _ _ => exact (hs.memWrite hc).writeRes _
  | desLoadKey key => exact hs.loadKey key
  | desSched => exact hs.ensureSchedule hc
  | desEnc _ | desDec _ => exact (hs.ensureSchedule hc).writeRes _
  | trvInit _ _ => exact hs.initStream _
  | trvWarmup | trvGen _ => exact hs.updates hc.2

/-- Every command keeps the invariant, however it ends (60_exceptions.md R240). -/
theorem State.Inv.exec {t : State} {i : Instr} (h : exec i s = .next t) : t.Inv := by
  obtain ⟨-, rfl⟩ | ⟨-, ⟨e, info, rfl⟩ | ⟨f, info, rfl⟩ | ⟨hc, rfl⟩⟩ := exec_next h
  case inl => exact hs
  case inr.inl => exact hs.erred e info
  case inr.inr.inl => exact hs.faulted f info
  case inr.inr.inr => exact (hs.commandEffect hc).succeeded

/-- Every command word keeps the invariant, decoded or not. -/
theorem State.Inv.issue {t : State} {w : CmdWord} (h : s.issue w = .next t) : t.Inv := by
  obtain rfl | rfl | ⟨i, hi⟩ := State.issue_next h
  · exact hs
  · exact hs.faulted .illegalCommand _
  · exact hs.exec hi

/-- A host write keeps the invariant: a byte that the host writes is inside BUF. -/
theorem State.Inv.hostWrite {t : State} {a : Nat} {y : Byte} (h : s.hostWrite a y = .next t) : t.Inv := by
  obtain ⟨ha, rfl⟩ := State.hostWrite_next.1 h
  exact hs.memWrite (ys := [y]) ha

end

/-- Settles O17, by the kind of the host's next action. -/
theorem stepKeepsTheInvariant : Obligations.StepKeepsTheInvariant := by
  intro s t hs h
  match hport : s.port with
  | [] =>
    cases (step_idle hport).symm.trans h
    exact hs
  | .command w :: rest => exact (hs.withPort rest).issue ((step_command hport).symm.trans h)
  | .writeBuf a y :: rest => exact (hs.withPort rest).hostWrite ((step_writeBuf hport).symm.trans h)
  | .reset :: rest =>
    cases (step_reset hport).symm.trans h
    exact State.inv_resetWith hs.params _ rest

/-- Settles O18: `State.reset` is a reset state, and its parameters are in range. -/
theorem resetMeetsTheInvariant : Obligations.ResetMeetsTheInvariant :=
  State.inv_resetWith (by decide) 0 []

end Sys2Proof.Machine
end

section
/-! PROOFS. The frame of RES (10_state.md R26). -/

namespace Sys2Proof.Machine

/-- Only the effects of the six result commands are on RES. -/
theorem commandEffect_RES (s : State) {i : Instr} (hi : writesRes i = false) : (commandEffect s i).RES = s.RES := by
  cases i with
  | bvGet _ _ | bvLen _ | bvPack _ _ | bvStore _ _ | desEnc _ | desDec _ => cases hi
  | desSched => exact s.ensureSchedule_RES
  | _ => rfl

/-- No command's effect is on FAULT. -/
theorem commandEffect_FAULT (s : State) (i : Instr) : (commandEffect s i).FAULT = s.FAULT := by
  cases i with
  | desSched | desEnc _ | desDec _ => exact s.ensureSchedule_FAULT
  | _ => rfl

/-- Settles O14: only a command that succeeds has an effect, and it leaves STATUS and FAULT 0. -/
theorem resChangesOnlyByResultCommands : Obligations.ResChangesOnlyByResultCommands := by
  intro i s t h hcase
  obtain ⟨-, rfl⟩ | ⟨hrun, ⟨e, info, rfl⟩ | ⟨f, info, rfl⟩ | ⟨-, rfl⟩⟩ := exec_next h
  case inl | inr.inl | inr.inr.inl => rfl
  case inr.inr.inr =>
    obtain hi | hstatus | hfault := hcase
    · exact commandEffect_RES s hi
    · exact absurd rfl hstatus
    · exact absurd ((commandEffect_FAULT s i).trans hrun) hfault

end Sys2Proof.Machine
end

section
/-! PROOFS. Secrets: two runs of one command from states that differ in the key, the subkeys and the stream state take the
same branch (10_state.md R31, R32). -/

namespace Sys2Proof.Machine

/-- What one command can show: what the host reads and what the BitVector registers hold (R32). -/
def State.shown (s : State) : HostView × Vector BitSeq 16 := (s.hostView, s.b)

/-- The state with other secrets: key, subkeys and stream state (R31, R32). -/
def State.withSecrets (s : State) (key : BitVec 64) (K : Vector (BitVec 64) 16) (sreg : BitVec 288) : State :=
  { s with desKey := key, K := K, sreg := sreg }

theorem State.withSecrets_readB (s : State) (key K sreg) (r : BReg) :
    (s.withSecrets key K sreg).readB r = s.readB r := rfl

theorem State.withSecrets_memRead (s : State) (key K sreg) (addr n : Nat) :
    (s.withSecrets key K sreg).memRead addr n = s.memRead addr n := rfl

/-- The answers of one command from s and from u come from the same branch of its meaning: both ignored, the same error, the
same fault, or both the command's effect (60_exceptions.md R240). -/
inductive SameBranch (s u : State) (i : Instr) : Result → Result → Prop
  | ignored : SameBranch s u i (.next s) (.next u)
  | error {e info} : SameBranch s u i (s.raiseError e info) (u.raiseError e info)
  | fault {f info} : SameBranch s u i (s.takeFault f info) (u.takeFault f info)
  | effect : SameBranch s u i (commandEffect s i).succeed (commandEffect u i).succeed

/-- A check that both runs answer alike is one branch for both. -/
theorem SameBranch.check {s u : State} {i : Instr} {c : Prop} {_ : Decidable c} {r r' q q' : Result}
    (hpos : c → SameBranch s u i r r') (hneg : ¬ c → SameBranch s u i q q') :
    SameBranch s u i (if c then r else q) (if c then r' else q') := by
  split
  case isTrue h => exact hpos h
  case isFalse h => exact hneg h

/-- No check of a command reads a secret, so other secrets lead to the same branch. -/
theorem exec_withSecrets_sameBranch (s : State) (key : BitVec 64) (K : Vector (BitVec 64) 16) (sreg : BitVec 288)
    (i : Instr) : SameBranch s (s.withSecrets key K sreg) i (exec i s) (exec i (s.withSecrets key K sreg)) := by
  cases i <;> refine .check (fun _ => .ignored) fun _ => ?_
  case bvRev | bvRevi | bvLen | desLoadKey => exact .effect
  case bvSet | bvAppend | bvShl | bvShr | bvPack | bvStore => exact .check (fun _ => .fault) fun _ => .effect
  case bvXor => exact .check (fun _ => .error) fun _ => .effect
  case bvInsert => exact .check (fun _ => .fault) fun _ => .check (fun _ => .fault) fun _ => .effect
  case desSched | desEnc | desDec | trvKs => exact .check (fun _ => .effect) fun _ => .fault
  case trvInit => exact .check (fun _ => .error) fun _ => .check (fun _ => .error) fun _ => .effect
  case trvWarmup | trvGen => exact .check (fun _ => .check (fun _ => .fault) fun _ => .effect) fun _ => .fault
  case trvEnc | trvDec =>
    exact .check (fun _ => .check (fun _ => .error) fun _ => .check (fun _ => .error) fun _ => .effect) fun _ => .fault
  case bvConstruct rd n addr _ =>
    refine .check (fun _ => .fault) fun _ => .check (fun _ => .fault) fun _ => ?_
    rw [State.withSecrets_memRead]
    cases (s.memRead addr n).find? _ with
    | some bad => exact .error
    | none => exact .effect
  case bvGet ra i _ =>
    rw [State.withSecrets_readB]
    cases hbit : (s.readB ra)[i]? with
    | none => exact .fault
    | some bit =>
      obtain rfl : (s.readB ra).getD i false = bit := by simp [hbit]
      exact .effect

/-- The effect of a command other than DES.ENC and DES.DEC shows nothing of the secrets, and the effect of those two nothing of
the stream state. -/
theorem commandEffect_withSecrets_shown (s : State) (key : BitVec 64) (K : Vector (BitVec 64) 16) (sreg : BitVec 288)
    {i : Instr} (hdes : (∀ block, i ≠ .desEnc block ∧ i ≠ .desDec block) ∨ key = s.desKey ∧ K = s.K) :
    (commandEffect (s.withSecrets key K sreg) i).shown = (commandEffect s i).shown := by
  cases i with
  | desSched | trvWarmup | trvGen _ => simp [commandEffect, State.shown, State.hostView, State.withSecrets]
  | desEnc block | desDec block =>
    obtain hne | ⟨rfl, rfl⟩ := hdes
    · simp at hne
    · simp [commandEffect, State.shown, State.hostView, State.withSecrets]
  | _ => rfl

/-- States that show the same show the same after the same report of success or error. -/
theorem State.shown_withStatus {s u : State} (h : u.shown = s.shown) (status : BitVec 8) (info : BitVec 32) :
    State.shown { u with STATUS := status, INFO := info } = State.shown { s with STATUS := status, INFO := info } :=
  congrArg (fun v : HostView × Vector BitSeq 16 => ({ v.1 with STATUS := status, INFO := info }, v.2)) h

/-- States that show the same show the same after the same fault. -/
theorem State.shown_withFault {s u : State} (h : u.shown = s.shown) (fault : BitVec 8) (info : BitVec 32) :
    State.shown { u with FAULT := fault, FINFO := info } = State.shown { s with FAULT := fault, FINFO := info } :=
  congrArg (fun v : HostView × Vector BitSeq 16 => ({ v.1 with FAULT := fault, FINFO := info }, v.2)) h

/-- Answers from the same branch show the same, if the two states do and the command's two effects do. -/
theorem SameBranch.shown {s u t : State} {i : Instr} {r r' : Result} (h : SameBranch s u i r r') (hr : r = .next t)
    (hsu : u.shown = s.shown) (heffect : (commandEffect u i).shown = (commandEffect s i).shown) :
    EndsIn r' fun t' => t'.shown = t.shown := by
  cases h with
  | ignored =>
    cases hr
    exact ⟨u, rfl, hsu⟩
  | error =>
    cases hr
    exact ⟨_, rfl, State.shown_withStatus hsu _ _⟩
  | fault =>
    cases hr
    exact ⟨_, rfl, State.shown_withFault hsu _ _⟩
  | effect =>
    cases hr
    exact ⟨_, rfl, State.shown_withStatus heffect _ _⟩

/-- A command shows the same with other secrets, unless it is DES.ENC or DES.DEC and the key or the subkeys are other ones. -/
theorem exec_withSecrets_shown {s t : State} {i : Instr} (h : exec i s = .next t) (key : BitVec 64)
    (K : Vector (BitVec 64) 16) (sreg : BitVec 288)
    (hdes : (∀ block, i ≠ .desEnc block ∧ i ≠ .desDec block) ∨ key = s.desKey ∧ K = s.K) :
    EndsIn (exec i (s.withSecrets key K sreg)) fun t' => t'.hostView = t.hostView ∧ t'.b = t.b := by
  obtain ⟨t', ht', hshown⟩ := (exec_withSecrets_sameBranch s key K sreg i).shown h rfl
    (commandEffect_withSecrets_shown s key K sreg hdes)
  exact ⟨t', ht', Prod.ext_iff.1 hshown⟩

/-- Settles O16: each of its two changes is a change of secrets that leaves the other secrets as they are. -/
theorem secretsAreNotReadBack : Obligations.SecretsAreNotReadBack := fun _ s _ h =>
  ⟨fun key K hdes => exec_withSecrets_shown h key K s.sreg (.inl hdes),
    fun sreg => exec_withSecrets_shown h s.desKey s.K sreg (.inr ⟨rfl, rfl⟩)⟩

end Sys2Proof.Machine
end

section
/-! PROOFS. The frame of BUF: the bytes that a command leaves as they are (20_memory.md R51, R54). -/

namespace Sys2Proof.Machine

/-- A run of writes leaves every byte outside its range alone (R54). -/
theorem Memory.read?_writeBytes_outside (m : Memory) {addr a : Nat} {ys : List Byte}
    (ha : a < addr ∨ addr + ys.length ≤ a) : (m.writeBytes addr ys).read? a = m.read? a := by
  rw [Memory.read?_writeBytes, if_neg (by omega)]

/-- Only the effects of BV.PACK and BV.STORE are on BUF (R51). -/
theorem commandEffect_BUF (s : State) {i : Instr} (hi : writesBuf i = false) : (commandEffect s i).BUF = s.BUF := by
  cases i with
  | bvPack _ _ | bvStore _ _ => cases hi
  | desSched | desEnc _ | desDec _ => exact s.ensureSchedule_BUF
  | _ => rfl

/-- A byte of BUF that a command's effect leaves as it is reads as before after the command, however it ends. -/
theorem exec_keeps_byte {s t : State} {i : Instr} {a : Nat} (h : exec i s = .next t)
    (heffect : (commandEffect s i).BUF.read? a = s.BUF.read? a) :
    t.BUF.read? a = s.BUF.read? a :=
  exec_keeps (fun u => u.BUF.read? a) (fun _ _ _ => rfl) (fun _ _ _ => rfl) heffect h

/-- Settles O13: the two stores write one run of bytes, as many as the packing or the register has, and no other command's
effect is on BUF. -/
theorem onlyStoresChangeMemory : Obligations.OnlyStoresChangeMemory := by
  intro i s t h
  cases i with
  | bvPack ra addr =>
    intro a ha
    rw [← pack_length] at ha
    exact exec_keeps_byte h (s.BUF.read?_writeBytes_outside ha)
  | bvStore ra addr =>
    intro a ha
    rw [← List.length_map (f := wireByte)] at ha
    exact exec_keeps_byte h (s.BUF.read?_writeBytes_outside ha)
  | _ => exact fun a => exec_keeps_byte h (congrArg (Memory.read? · a) (commandEffect_BUF s rfl))

end Sys2Proof.Machine
end

section
/-! PROOFS. The decoder and the encoder (30_encoding.md R70 to R76): which fields a command uses, and when the fields of a
word decode to it. -/

namespace Sys2Proof

/-- The fields a command uses: its row of R73. -/
def Instr.fieldUse : Instr → FieldUse
  | .bvConstruct .. => { rd := true, idx := true, data := .addr }
  | .bvGet .. => { ra := true, idx := true }
  | .bvSet .. | .bvInsert .. => { rd := true, bit := true, idx := true }
  | .bvAppend .. => { rd := true, bit := true }
  | .bvShl .. | .bvShr .. => { rd := true, idx := true }
  | .bvRev .. | .trvEnc .. | .trvDec .. => { rd := true, ra := true }
  | .bvRevi .. | .trvKs .. => { rd := true }
  | .bvXor .. => { rd := true, ra := true, rb := true }
  | .bvPack .. | .bvStore .. => { ra := true, data := .addr }
  | .bvLen .. => { ra := true }
  | .desLoadKey .. | .desEnc .. | .desDec .. => { data := .whole }
  | .desSched | .trvWarmup => {}
  | .trvInit .. => { ra := true, rb := true }
  | .trvGen .. => { idx := true }

/-- The same command with its operands read anew from the fields of a word (R71, R72). -/
def Instr.readFrom (f : Fields) : Instr → Instr
  | .bvConstruct .. => .bvConstruct (regOf f.rd) f.idx.toNat (addrOf f.data)
  | .bvGet .. => .bvGet (regOf f.ra) f.idx.toNat
  | .bvSet .. => .bvSet (regOf f.rd) f.idx.toNat (bitOf f.bit)
  | .bvInsert .. => .bvInsert (regOf f.rd) f.idx.toNat (bitOf f.bit)
  | .bvAppend .. => .bvAppend (regOf f.rd) (bitOf f.bit)
  | .bvShl .. => .bvShl (regOf f.rd) f.idx.toNat
  | .bvShr .. => .bvShr (regOf f.rd) f.idx.toNat
  | .bvRev .. => .bvRev (regOf f.rd) (regOf f.ra)
  | .bvRevi .. => .bvRevi (regOf f.rd)
  | .bvXor .. => .bvXor (regOf f.rd) (regOf f.ra) (regOf f.rb)
  | .bvPack .. => .bvPack (regOf f.ra) (addrOf f.data)
  | .bvStore .. => .bvStore (regOf f.ra) (addrOf f.data)
  | .bvLen .. => .bvLen (regOf f.ra)
  | .desLoadKey .. => .desLoadKey f.data
  | .desSched => .desSched
  | .desEnc .. => .desEnc f.data
  | .desDec .. => .desDec f.data
  | .trvInit .. => .trvInit (regOf f.ra) (regOf f.rb)
  | .trvWarmup => .trvWarmup
  | .trvGen .. => .trvGen f.idx.toNat
  | .trvEnc .. => .trvEnc (regOf f.rd) (regOf f.ra)
  | .trvDec .. => .trvDec (regOf f.rd) (regOf f.ra)
  | .trvKs .. => .trvKs (regOf f.rd)

@[simp] theorem Instr.opcode_readFrom (f : Fields) (i : Instr) : (i.readFrom f).opcode = i.opcode := by cases i <;> rfl

@[simp] theorem Instr.mnemonic_readFrom (f : Fields) (i : Instr) : (i.readFrom f).mnemonic = i.mnemonic := by
  cases i <;> rfl

@[simp] theorem Instr.fieldUse_readFrom (f : Fields) (i : Instr) : (i.readFrom f).fieldUse = i.fieldUse := by
  cases i <;> rfl

@[simp] theorem Instr.readFrom_readFrom (f : Fields) (i : Instr) : (i.readFrom f).readFrom f = i.readFrom f := by
  cases i <;> rfl

/-- Operands read from fields fit the fields. -/
theorem Instr.wellFormed_readFrom (f : Fields) (i : Instr) : (i.readFrom f).wellFormed = true := by
  cases i <;> simp [Instr.readFrom, Instr.wellFormed, fitsIdx_toNat, fitsAddr_addrOf]

@[simp] theorem encodeFields_op (i : Instr) : (encodeFields i).op = i.opcode := by cases i <;> rfl

/-- The encoder leaves every field 0 that the command does not use (R75). -/
theorem encodeFields_unusedZero {i : Instr} (h : i.wellFormed = true) :
    (encodeFields i).unusedZero i.fieldUse = true := by
  cases i with
  | bvConstruct rd n addr =>
    obtain ⟨-, ha⟩ := (Bool.and_eq_true _ _).mp h
    simpa [encodeFields, Instr.fieldUse, Fields.unusedZero] using addr_high_zero ha
  | bvPack ra addr | bvStore ra addr =>
    simpa [encodeFields, Instr.fieldUse, Fields.unusedZero] using addr_high_zero h
  | _ => rfl

/-- The operands of a well-formed command are what its fields read as. -/
theorem readFrom_encodeFields {i : Instr} (h : i.wellFormed = true) : i.readFrom (encodeFields i) = i := by
  cases i with
  | bvConstruct rd n addr =>
    obtain ⟨hn, ha⟩ := (Bool.and_eq_true _ _).mp h
    simp [encodeFields, Instr.readFrom, toNat_ofNat_idx hn, addrOf_ofNat ha]
  | bvPack ra addr | bvStore ra addr => simp [encodeFields, Instr.readFrom, addrOf_ofNat h]
  | bvGet _ n | bvSet _ n _ | bvInsert _ n _ | bvShl _ n | bvShr _ n | trvGen n =>
    simp [encodeFields, Instr.readFrom, toNat_ofNat_idx h]
  | _ => simp [encodeFields, Instr.readFrom]

/-- Fields with the command's opcode and 0 where it uses none are the encoding of what they read as: no bit is ignored. -/
theorem encodeFields_readFrom {f : Fields} {i : Instr} (hop : f.op = i.opcode)
    (hzero : f.unusedZero i.fieldUse = true) : encodeFields (i.readFrom f) = f := by
  obtain ⟨op, rd, ra, rb, zero, bit, idx, data⟩ := f
  obtain rfl : op = i.opcode := hop
  cases i <;>
    simp_all [Fields.unusedZero, Instr.fieldUse, Instr.readFrom, encodeFields, Instr.opcode, ofNat_addrOf]

/-- With a command's opcode, the decoder checks that command's unused fields and reads its operands. -/
theorem decodeFields_of_op {f : Fields} {i : Instr} (h : f.op = i.opcode) :
    decodeFields f = f.checked i.fieldUse (i.readFrom f) := by
  unfold decodeFields
  rw [h]
  cases i <;> rfl

/-- What decodes has the opcode of its command. -/
theorem op_of_decodeFields {f : Fields} {i : Instr} (h : decodeFields f = .ok i) : f.op = i.opcode := by
  unfold decodeFields at h
  split at h
  case h_24 => cases h
  all_goals
    rename_i hop
    obtain ⟨-, rfl⟩ := Fields.checked_ok.1 h
    exact BitVec.eq_of_toNat_eq hop

/-- When fields decode to a command: its opcode, 0 in every field it does not use, its operands in the others. -/
theorem decodeFields_ok {f : Fields} {i : Instr} :
    decodeFields f = .ok i ↔ f.op = i.opcode ∧ f.unusedZero i.fieldUse = true ∧ i.readFrom f = i := by
  constructor
  · intro h
    have hop := op_of_decodeFields h
    exact ⟨hop, Fields.checked_ok.1 (decodeFields_of_op hop ▸ h)⟩
  · rintro ⟨hop, hchecked⟩
    rw [decodeFields_of_op hop, Fields.checked_ok]
    exact hchecked

/-- Settles O1: the fields of the encoding meet each condition of `decodeFields_ok`. -/
theorem decodeInvertsEncode : Obligations.DecodeInvertsEncode := fun i h => by
  rw [encode, decode_wordOf, decodeFields_ok]
  exact ⟨encodeFields_op i, encodeFields_unusedZero h, readFrom_encodeFields h⟩

/-- Settles O2: the command is what the fields read as, and the fields are its encoding. -/
theorem decodedWordIsTheEncoding : Obligations.DecodedWordIsTheEncoding := fun w i h => by
  obtain ⟨hop, hzero, hread⟩ := decodeFields_ok.1 h
  constructor
  · exact hread ▸ i.wellFormed_readFrom (fieldsOf w)
  · rw [encode, ← hread, encodeFields_readFrom hop hzero, wordOf_fieldsOf]

/-- Settles O5, by running the decoder on each word. -/
theorem sampleWordsDecode : Obligations.SampleWordsDecode := by
  unfold Obligations.SampleWordsDecode
  decide

end Sys2Proof
end

section
/-! PROOFS. The opcode table: which row is a command's, and when a word fits it (30_encoding.md R73). -/

namespace Sys2Proof

/-- The mask of a field of `w` bits: every bit of a field that must be 0, no bit of one that the command uses. -/
def fieldMask (w : Nat) (used : Bool) : BitVec w := bif used then 0 else .allOnes w

/-- The mask of the `data` field: an address leaves the high half to be 0 (R72). -/
def DataUse.mask : DataUse → BitVec 64
  | .unused => .allOnes 64
  | .addr => 0xFFFFFFFF00000000
  | .whole => 0

/-- The mask of R73 by fields: the whole opcode, and every bit that the command does not use. -/
def FieldUse.mask (u : FieldUse) : Fields where
  op := .allOnes 8
  rd := fieldMask 4 u.rd
  ra := fieldMask 4 u.ra
  rb := fieldMask 4 u.rb
  zero := .allOnes 11
  bit := fieldMask 1 u.bit
  idx := fieldMask 32 u.idx
  data := u.data.mask

/-- The row of the opcode table that the command's opcode and field use make (R73). -/
def Instr.tableRow (i : Instr) : OpcodeRow := ⟨i.mnemonic, wordOf i.fieldUse.mask, wordOf { op := i.opcode }⟩

/-- One command of each kind, in the order of the opcode table. -/
def oneOfEachKind : List Instr :=
  [.bvConstruct 0 0 0, .bvGet 0 0, .bvSet 0 0 false, .bvInsert 0 0 false, .bvAppend 0 false, .bvShl 0 0, .bvShr 0 0,
    .bvRev 0 0, .bvRevi 0, .bvXor 0 0 0, .bvPack 0 0, .bvStore 0 0, .bvLen 0, .desLoadKey 0, .desSched, .desEnc 0,
    .desDec 0, .trvInit 0 0, .trvWarmup, .trvGen 0, .trvEnc 0 0, .trvDec 0 0, .trvKs 0]

/-- The literal masks and patterns of the opcode table are those of the field use. -/
theorem opcodeTable_eq_tableRows : opcodeTable = oneOfEachKind.map Instr.tableRow := by decide

/-- Every command's row stands in the opcode table. -/
theorem Instr.tableRow_mem (i : Instr) : i.tableRow ∈ opcodeTable := by
  rw [opcodeTable_eq_tableRows]
  cases i <;> simp [oneOfEachKind, Instr.tableRow, Instr.mnemonic, Instr.fieldUse, Instr.opcode]

/-- A mnemonic stands in one row of the opcode table only. -/
theorem opcodeTable_mnemonic_injOn {r r' : OpcodeRow} (hr : r ∈ opcodeTable) (hr' : r' ∈ opcodeTable)
    (h : r.mnemonic = r'.mnemonic) : r = r' :=
  List.inj_on_of_nodup_map (f := OpcodeRow.mnemonic) (by decide) hr hr' h

theorem and_fieldMask_eq_zero {w : Nat} (x : BitVec w) (used : Bool) :
    x &&& fieldMask w used = 0 ↔ (used || x == 0) = true := by
  cases used <;> simp [fieldMask]

/-- Masked fields are an opcode alone exactly when they have that opcode and 0 in every field that is not used (R75). -/
theorem Fields.masked_mask (f : Fields) (u : FieldUse) (op : BitVec 8) :
    f.masked u.mask = { op := op } ↔ f.op = op ∧ f.unusedZero u = true := by
  obtain ⟨rd, ra, rb, bit, idx, data⟩ := u
  simp only [Fields.masked, FieldUse.mask, Fields.mk.injEq, BitVec.and_allOnes, and_fieldMask_eq_zero]
  cases data
  case unused => simp [DataUse.mask, Fields.unusedZero, and_assoc, -BitVec.reduceAllOnes]
  case addr => simp [DataUse.mask, Fields.unusedZero, and_assoc, data_high_masked]
  case whole => simp [DataUse.mask, Fields.unusedZero, and_assoc]

/-- A word fits a command's row exactly when it has the command's opcode and 0 in every field the command leaves unused. -/
theorem Instr.tableRow_fits (i : Instr) (w : CmdWord) :
    i.tableRow.fits w = true ↔ (fieldsOf w).op = i.opcode ∧ (fieldsOf w).unusedZero i.fieldUse = true := by
  rw [← Fields.masked_mask, OpcodeRow.fits, beq_iff_eq, Instr.tableRow]
  constructor
  · intro h
    simpa [fieldsOf_and] using congrArg fieldsOf h
  · intro h
    exact fieldsOf_injective (by simpa [fieldsOf_and] using h)

/-- A word that decodes fits its command's row. -/
theorem Instr.tableRow_fits_of_decode {w : CmdWord} {i : Instr} (h : decode w = .ok i) : i.tableRow.fits w = true := by
  obtain ⟨hop, hzero, -⟩ := decodeFields_ok.1 h
  exact i.tableRow_fits w |>.2 ⟨hop, hzero⟩

/-- A word that fits a command's row decodes to that command with the operands the word holds. -/
theorem Instr.decode_of_tableRow_fits {w : CmdWord} {i : Instr} (h : i.tableRow.fits w = true) :
    decode w = .ok (i.readFrom (fieldsOf w)) := by
  rw [decode, decodeFields_ok]
  simpa using (i.tableRow_fits w).1 h

/-- Settles O3: each row is the row of some command, and a mnemonic has one row. -/
theorem tableRowFitsItsWords : Obligations.TableRowFitsItsWords := by
  intro row hrow w
  obtain ⟨j, -, rfl⟩ := List.mem_map.1 (opcodeTable_eq_tableRows ▸ hrow)
  constructor
  · exact fun h => ⟨_, Instr.decode_of_tableRow_fits h, Instr.mnemonic_readFrom ..⟩
  · rintro ⟨i, hi, hmnemonic⟩
    rw [← opcodeTable_mnemonic_injOn i.tableRow_mem hrow hmnemonic]
    exact Instr.tableRow_fits_of_decode hi

/-- No command has a reserved opcode (R76). -/
theorem Instr.opcode_not_reserved (i : Instr) : ¬ IsReservedOp i.opcode.toNat := by
  cases i <;> simp [Instr.opcode, IsReservedOp]

/-- A word with a reserved opcode, or that fits no row of the opcode table, decodes to no command (R75, R76). -/
theorem decode_ne_ok_of_illegal {w : CmdWord}
    (h : IsReservedOp (w.extractLsb' 120 8).toNat ∨ ∀ row ∈ opcodeTable, row.fits w = false) (i : Instr) :
    decode w ≠ .ok i := by
  intro hi
  obtain hreserved | hfits := h
  · exact i.opcode_not_reserved (op_of_decodeFields hi ▸ hreserved)
  · exact Bool.false_ne_true ((hfits _ i.tableRow_mem).symm.trans (Instr.tableRow_fits_of_decode hi))

end Sys2Proof
end

section
/-! PROOFS. What a running block does with an illegal word and with a word that decodes (30_encoding.md R75, R76, R83). -/

namespace Sys2Proof.Machine

/-- A running block faults IllegalCommand on a word that decodes to no command (R76). -/
theorem State.issue_illegal {s : State} {w : CmdWord} (hrun : s.FAULT = 0) (h : ∀ i, decode w ≠ .ok i) :
    s.issue w = s.takeFault .illegalCommand (illegalInfo w) := by
  cases hd : decode w with
  | error _ => simp [State.issue_eq, hrun, hd]
  | ok i => exact absurd hd (h i)

/-- A running block gives a word that decodes its command's meaning (R83). -/
theorem State.issue_decoded {s : State} {w : CmdWord} {i : Instr} (hrun : s.FAULT = 0) (h : decode w = .ok i) :
    s.issue w = exec i s := by
  simp [State.issue_eq, hrun, h]

/-- Settles O4: the word decodes to no command, so the step is its IllegalCommand fault. -/
theorem illegalWordsFault : Obligations.IllegalWordsFault := by
  intro s w rest hrun hport hillegal
  have hissue := State.issue_illegal (s := { s with port := rest }) hrun (decode_ne_ok_of_illegal hillegal)
  exact ⟨_, (step_command hport).trans hissue, rfl⟩

/-- Settles O6: the step takes the word from the port and issues it. -/
theorem stepRunsTheDecodedCommand : Obligations.StepRunsTheDecodedCommand := fun _ _ _ _ hrun hport hdecode =>
  (step_command hport).trans (State.issue_decoded hrun hdecode)

end Sys2Proof.Machine
end

section
/-! PROOFS. How every command ends: the errors and faults that its rows of the tables list, and the register file's frame
(40_bitvector.md R118, R120; 60_exceptions.md R258). -/

namespace Sys2Proof.Machine

/-- What the tables allow a command of a running block to answer: a listed error, a listed fault, or success with the
command's effect (R120, R258). -/
inductive ListedAnswer (s : State) (i : Instr) : Result → Prop
  | error {e info} (h : mayRaise i e = true) : ListedAnswer s i (s.raiseError e info)
  | fault {f info} (h : mayFault i f = true) : ListedAnswer s i (s.takeFault f info)
  | effect : ListedAnswer s i (commandEffect s i).succeed

/-- A check answers what its two branches answer. -/
theorem ListedAnswer.check {s : State} {i : Instr} {c : Prop} {_ : Decidable c} {r r' : Result}
    (hpos : c → ListedAnswer s i r) (hneg : ¬ c → ListedAnswer s i r') : ListedAnswer s i (if c then r else r') := by
  split
  case isTrue h => exact hpos h
  case isFalse h => exact hneg h

/-- Every command of a running block answers as its rows list, check by check. -/
theorem exec_listed {s : State} (hrun : s.FAULT = 0) (i : Instr) : ListedAnswer s i (exec i s) := by
  cases i <;> refine .check (fun hhalt => absurd hrun ((State.halted_iff s).1 hhalt)) fun _ => ?_
  case bvRev | bvRevi | bvLen | desLoadKey => exact .effect
  case bvSet | bvAppend | bvShl | bvShr | bvPack | bvStore => exact .check (fun _ => .fault rfl) fun _ => .effect
  case bvXor => exact .check (fun _ => .error rfl) fun _ => .effect
  case bvInsert => exact .check (fun _ => .fault rfl) fun _ => .check (fun _ => .fault rfl) fun _ => .effect
  case desSched | desEnc | desDec | trvKs => exact .check (fun _ => .effect) fun _ => .fault rfl
  case trvInit => exact .check (fun _ => .error rfl) fun _ => .check (fun _ => .error rfl) fun _ => .effect
  case trvWarmup | trvGen => exact .check (fun _ => .check (fun _ => .fault rfl) fun _ => .effect) fun _ => .fault rfl
  case trvEnc | trvDec =>
    exact .check (fun _ => .check (fun _ => .error rfl) fun _ => .check (fun _ => .error rfl) fun _ => .effect)
      fun _ => .fault rfl
  case bvConstruct rd n addr _ =>
    refine .check (fun _ => .fault rfl) fun _ => .check (fun _ => .fault rfl) fun _ => ?_
    cases (s.memRead addr n).find? _ with
    | some bad => exact .error rfl
    | none => exact .effect
  case bvGet ra i _ =>
    cases hbit : (s.readB ra)[i]? with
    | none => exact .fault rfl
    | some bit =>
      obtain rfl : (s.readB ra).getD i false = bit := by simp [hbit]
      exact .effect

/-- No command's effect is on FINFO. -/
theorem commandEffect_FINFO (s : State) (i : Instr) : (commandEffect s i).FINFO = s.FINFO := by
  cases i with
  | desSched | desEnc _ | desDec _ => exact s.ensureSchedule_FINFO
  | _ => rfl

/-- Settles O11: a halted block answers its own state, a running one answers as the tables list. -/
theorem commandsRaiseOnlyWhatTheyMay : Obligations.CommandsRaiseOnlyWhatTheyMay := by
  intro i s
  by_cases hrun : s.FAULT = 0
  case neg => exact ⟨s, exec_halted hrun i, .inl ⟨hrun, rfl⟩⟩
  case pos =>
    generalize hr : exec i s = r
    cases (hr ▸ exec_listed hrun i : ListedAnswer s i r) with
    | error h => exact ⟨_, rfl, .inr ⟨hrun, .inl ⟨_, _, h, rfl⟩⟩⟩
    | fault h => exact ⟨_, rfl, .inr ⟨hrun, .inr (.inl ⟨_, _, h, rfl⟩)⟩⟩
    | effect =>
      exact ⟨_, rfl, .inr ⟨hrun, .inr (.inr
        ⟨rfl, rfl, (commandEffect_FAULT s i).trans hrun, commandEffect_FINFO s i⟩)⟩⟩

/-- A command's effect is on no BitVector register but its destination (10_state.md R20). -/
theorem commandEffect_readB (s : State) {i : Instr} {r : BReg} (hr : destReg i ≠ some r) :
    (commandEffect s i).readB r = s.readB r := by
  cases i with
  | bvConstruct | bvSet | bvInsert | bvAppend | bvShl | bvShr | bvRev | bvRevi | bvXor | trvEnc | trvDec | trvKs =>
    exact State.readB_writeB_of_ne s _ fun h => hr (congrArg some h.symm)
  | desSched | desEnc _ | desDec _ => exact State.readB_congr s.ensureSchedule_b r
  | _ => rfl

/-- Settles O12: a register is an observation that reads no report register. -/
theorem onlyTheDestinationRegisterChanges : Obligations.OnlyTheDestinationRegisterChanges := fun _ s _ r h hr =>
  exec_keeps (State.readB · r) (fun _ _ _ => rfl) (fun _ _ _ => rfl) (commandEffect_readB s hr) h

end Sys2Proof.Machine
end

section
/-! PROOFS. The sequence operations of the BVU as operations on lists: what they leave at each index, and the laws of chunk
reversal, XOR and packing (40_bitvector.md R104 to R113). -/

namespace Sys2Proof.Machine

/-- BV.SET's slices put one element in the place of element i (R104). -/
theorem slices_set (v : BitSeq) {i : Nat} (bit : Bit) (hi : i < v.length) :
    slice v 0 i ++ [bit] ++ slice v (i + 1) v.length = v.set i bit := by
  simp [slice, List.set_eq_take_append_cons_drop, hi]

/-- BV.INSERT's slices put one element before element i (R105). -/
theorem slices_insertIdx (v : BitSeq) {i : Nat} (bit : Bit) (hi : i ≤ v.length) :
    slice v 0 i ++ [bit] ++ slice v i v.length = v.insertIdx i bit := by
  suffices h : v.take i ++ bit :: v.drop i = v.insertIdx i bit by simpa [slice] using h
  induction i generalizing v with
  | zero => simp
  | succ i ih =>
    cases v with
    | nil => simp at hi
    | cons b v => simpa using ih v (by simpa using hi)

/-- n zero bits after the tail multiply the value by 2^n (R107). -/
theorem bitsToNat_append_zeros (v : BitSeq) (n : Nat) : bitsToNat (v ++ zeros n) = bitsToNat v * 2 ^ n := by
  induction n with
  | zero => simp [zeros]
  | succ n ih =>
    have hlast : v ++ zeros (n + 1) = (v ++ zeros n) ++ [false] := by simp [zeros, List.replicate_succ']
    rw [hlast, bitsToNat_append, ih, Nat.pow_succ]
    simp only [Bool.toNat_false]
    ring

/-- Chunk reversal is the relation of R109. -/
theorem isChunkReversal_reverseChunks (v : BitSeq) : IsChunkReversal v (reverseChunks v) :=
  ⟨reverseChunks_length v, reverseChunks_getElem? v⟩

/-- With whole chunks only, chunk k of n changes places with chunk n - 1 - k (R109). -/
theorem reverseChunks_getElem?_whole {v : BitSeq} {n k j : Nat} (hv : v.length = 8 * n) (hk : k < n) (hj : j < 8) :
    (reverseChunks v)[8 * (n - 1 - k) + j]? = v[8 * k + j]? := by
  rw [← reverseChunks_getElem? v k j hj (by omega)]
  congr 1
  omega

/-- Settles O28: chunk k goes to the place of chunk n - 1 - k, and that chunk goes back to place k. -/
theorem reverseTwiceOnWholeChunks : Obligations.ReverseTwiceOnWholeChunks := by
  intro v hwhole
  obtain ⟨n, hv⟩ : ∃ n, v.length = 8 * n := Nat.dvd_of_mod_eq_zero hwhole
  have hrev : (reverseChunks v).length = 8 * n := (reverseChunks_length v).trans hv
  refine List.ext_getElem? fun i => ?_
  by_cases hi : i < 8 * n
  case pos =>
    obtain ⟨k, j, hj, rfl⟩ : ∃ k j, j < 8 ∧ i = 8 * k + j := ⟨i / 8, i % 8, by omega, by omega⟩
    have hk : k < n := by omega
    calc (reverseChunks (reverseChunks v))[8 * k + j]?
      _ = (reverseChunks (reverseChunks v))[8 * (n - 1 - (n - 1 - k)) + j]? := by congr 1; omega
      _ = (reverseChunks v)[8 * (n - 1 - k) + j]? := reverseChunks_getElem?_whole hrev (by omega) hj
      _ = v[8 * k + j]? := reverseChunks_getElem?_whole hv hk hj
  case neg =>
    rw [List.getElem?_eq_none (by simp; omega), List.getElem?_eq_none (by omega)]

theorem xorSeq_self (x : BitSeq) : xorSeq x x = List.replicate x.length false := by
  simp [xorSeq, List.zipWith_self]

theorem xorSeq_comm (x y : BitSeq) : xorSeq x y = xorSeq y x := List.zipWith_comm_of_comm Bool.xor_comm

theorem xorSeq_assoc (x y z : BitSeq) : xorSeq (xorSeq x y) z = xorSeq x (xorSeq y z) :=
  List.ext_getElem (by simp [Nat.min_assoc]) (by simp [xorSeq])

/-- XOR with the same sequence twice gives the first one back (R117). -/
theorem xorSeq_cancel {x y : BitSeq} (h : x.length = y.length) : xorSeq (xorSeq x y) y = x :=
  List.ext_getElem (by simp [h]) (by simp [xorSeq])

/-- `pack` is the relation of R113: byte k is the byte of chunk k. -/
theorem isPacking_pack (v : BitSeq) : IsPacking v (pack v) := by
  refine ⟨pack_length v, fun k y hy => ?_⟩
  have hlen := chunk_length v k
  obtain rfl : byteMsb (chunk v k) = y := by
    rw [pack_getElem?] at hy
    split at hy
    · exact Option.some.inj hy
    · cases hy
  have hbit := byteMsb_getLsbD (chunk v k) (by omega)
  refine ⟨fun j hj => ?bits, fun m hm => ?upper⟩
  case bits =>
    have hj' : (chunk v k).length - 1 - ((chunk v k).length - 1 - j) = j := by omega
    have helem : (chunk v k)[j]? = v[8 * k + j]? := by rw [chunk_getElem?, if_pos (by omega)]
    rw [← hlen, hbit, hj', helem, List.getElem?_eq_getElem (by omega)]
    simp; omega
  case upper => simp [hbit, Nat.not_lt.2 (hlen ▸ hm)]

end Sys2Proof.Machine
end

section
/-! PROOFS. What a BVU command of a running block answers when a check fails (40_bitvector.md R102 to R115, R120). -/

namespace Sys2Proof.Machine

/-- A command that answers a fault ends in it (60_exceptions.md R244). -/
theorem endsIn_faulted {s : State} {r : Result} {f : BlockFault} {info : BitVec 32} (h : r = s.takeFault f info) :
    EndsIn r fun t => Faulted s t f info := ⟨_, h, rfl⟩

/-- A command that answers an error ends in it (60_exceptions.md R243). -/
theorem endsIn_erred {s : State} {r : Result} {e : CmdError} {info : BitVec 32} (h : r = s.raiseError e info) :
    EndsIn r fun t => Erred s t e info := ⟨_, h, rfl⟩

theorem State.not_inBuf_iff (s : State) (addr n : Nat) : (!s.inBuf addr n) = true ↔ s.cfg.bufBytes < addr + n := by
  simp [State.inBuf]

theorem State.not_fitsCap_iff (s : State) (n : Nat) : (!s.fitsCap n) = true ↔ s.cfg.bvCap < n := by
  simp [State.fitsCap]

section
variable {s : State} (hrun : s.FAULT = 0)
include hrun

theorem exec_bvConstruct_bufferRange (rd : BReg) {n addr : Nat} (h : s.cfg.bufBytes < addr + n) :
    exec (.bvConstruct rd n addr) s = s.takeFault .bufferRange (zext32 addr) :=
  (s.unlessHalted_running hrun _).trans (if_pos ((s.not_inBuf_iff addr n).2 h))

theorem exec_bvConstruct_capacityOverflow (rd : BReg) {n addr : Nat} (hin : addr + n ≤ s.cfg.bufBytes)
    (h : s.cfg.bvCap < n) : exec (.bvConstruct rd n addr) s = s.takeFault .capacityOverflow 0 :=
  (s.unlessHalted_running hrun _).trans <|
    (if_neg fun hout => Nat.not_lt.2 hin ((s.not_inBuf_iff addr n).1 hout)).trans (if_pos ((s.not_fitsCap_iff n).2 h))

/-- The first byte that is no wire bit is the error InvalidBit (R102). -/
theorem exec_bvConstruct_invalidBit (rd : BReg) {n addr : Nat} {bad : Byte} (hin : addr + n ≤ s.cfg.bufBytes)
    (hcap : n ≤ s.cfg.bvCap) (h : (s.memRead addr n).find? (fun y => !isWireBit y) = some bad) :
    exec (.bvConstruct rd n addr) s = s.raiseError .invalidBit (bad.setWidth 32) := by
  simp [exec, execBvConstruct, State.unlessHalted_running hrun, State.inBuf, State.fitsCap, hin, hcap, h]

theorem exec_bvGet_indexRange {ra : BReg} {i : Nat} (h : (s.readB ra).length ≤ i) :
    exec (.bvGet ra i) s = s.takeFault .indexRange (zext32 i) := by
  simp [exec, execBvGet, State.unlessHalted_running hrun, h]

theorem exec_bvSet_indexRange {rd : BReg} {i : Nat} (bit : Bit) (h : (s.readB rd).length ≤ i) :
    exec (.bvSet rd i bit) s = s.takeFault .indexRange (zext32 i) :=
  (s.unlessHalted_running hrun _).trans (if_pos h)

theorem exec_bvInsert_indexRange {rd : BReg} {i : Nat} (bit : Bit) (h : (s.readB rd).length < i) :
    exec (.bvInsert rd i bit) s = s.takeFault .indexRange (zext32 i) :=
  (s.unlessHalted_running hrun _).trans (if_pos h)

theorem exec_bvInsert_capacityOverflow {rd : BReg} {i : Nat} (bit : Bit) (hi : i ≤ (s.readB rd).length)
    (h : s.cfg.bvCap < (s.readB rd).length + 1) : exec (.bvInsert rd i bit) s = s.takeFault .capacityOverflow 0 :=
  (s.unlessHalted_running hrun _).trans <| (if_neg (Nat.not_lt.2 hi)).trans (if_pos ((s.not_fitsCap_iff _).2 h))

theorem exec_bvAppend_capacityOverflow {rd : BReg} (bit : Bit) (h : s.cfg.bvCap < (s.readB rd).length + 1) :
    exec (.bvAppend rd bit) s = s.takeFault .capacityOverflow 0 :=
  (s.unlessHalted_running hrun _).trans (if_pos ((s.not_fitsCap_iff _).2 h))

theorem exec_bvShl_capacityOverflow {rd : BReg} {n : Nat} (h : s.cfg.bvCap < (s.readB rd).length + n) :
    exec (.bvShl rd n) s = s.takeFault .capacityOverflow 0 :=
  (s.unlessHalted_running hrun _).trans (if_pos ((s.not_fitsCap_iff _).2 h))

theorem exec_bvShr_shiftRange {rd : BReg} {n : Nat} (h : (s.readB rd).length < n) :
    exec (.bvShr rd n) s = s.takeFault .shiftRange (zext32 n) :=
  (s.unlessHalted_running hrun _).trans (if_pos h)

theorem exec_bvXor_lengthMismatch (rd : BReg) {ra rb : BReg} (h : (s.readB ra).length ≠ (s.readB rb).length) :
    exec (.bvXor rd ra rb) s = s.raiseError .lengthMismatch 0 :=
  (s.unlessHalted_running hrun _).trans (if_pos h)

theorem exec_bvPack_bufferRange {ra : BReg} {addr : Nat} (h : s.cfg.bufBytes < addr + (pack (s.readB ra)).length) :
    exec (.bvPack ra addr) s = s.takeFault .bufferRange (zext32 addr) :=
  (s.unlessHalted_running hrun _).trans (if_pos ((s.not_inBuf_iff addr _).2 h))

theorem exec_bvStore_bufferRange {ra : BReg} {addr : Nat}
    (h : s.cfg.bufBytes < addr + ((s.readB ra).map wireByte).length) :
    exec (.bvStore ra addr) s = s.takeFault .bufferRange (zext32 addr) :=
  (s.unlessHalted_running hrun _).trans (if_pos ((s.not_inBuf_iff addr _).2 h))

end

end Sys2Proof.Machine
end

section
/-! PROOFS. BV.CONSTRUCT, BV.PACK and BV.STORE: the commands that go through BUF (20_memory.md R62; 40_bitvector.md R102, R113
to R115). -/

namespace Sys2Proof.Machine

theorem isWireBit_iff (y : Byte) : isWireBit y = true ↔ y = 0 ∨ y = 1 := by simp [isWireBit]

theorem isWireBit_wireByte (bit : Bit) : isWireBit (wireByte bit) = true := by cases bit <;> rfl

theorem wireByte_beq_one (bit : Bit) : (wireByte bit == 1) = bit := by cases bit <;> rfl

/-- Reading the wire bytes of a sequence as bits gives the sequence. -/
theorem map_beq_one_wireByte (v : BitSeq) : (v.map wireByte).map (fun y => y == 1) = v := by
  rw [List.map_map, funext wireByte_beq_one (f := (· == 1) ∘ wireByte), List.map_id']

/-- `find?` gives the first byte in ascending order that is no wire bit (R102). -/
theorem find?_not_wireBit_iff {ys : List Byte} {bad : Byte} :
    ys.find? (fun y => !isWireBit y) = some bad ↔
      ∃ k, ys[k]? = some bad ∧ bad ≠ 0 ∧ bad ≠ 1 ∧
        ∀ (j : Nat) (y : Byte), j < k → ys[j]? = some y → y = 0 ∨ y = 1 := by
  have hbad : (!isWireBit bad) = true ↔ bad ≠ 0 ∧ bad ≠ 1 := by simp [isWireBit]
  rw [List.find?_eq_some_iff_getElem, hbad]
  constructor
  · rintro ⟨⟨h0, h1⟩, k, hk, hbad, hbefore⟩
    refine ⟨k, List.getElem?_eq_some_iff.2 ⟨hk, hbad⟩, h0, h1, fun j y hj hy => ?_⟩
    obtain ⟨_, rfl⟩ := List.getElem?_eq_some_iff.1 hy
    exact (isWireBit_iff _).1 (by simpa using hbefore j hj)
  · rintro ⟨k, hk, h0, h1, hbefore⟩
    obtain ⟨hk, hbad⟩ := List.getElem?_eq_some_iff.1 hk
    refine ⟨⟨h0, h1⟩, k, hk, hbad, fun j hj => ?_⟩
    simpa using (isWireBit_iff _).2 (hbefore j _ hj (List.getElem?_eq_getElem (hj.trans hk)))

/-- A memory read of bytes that all have a value gives those bytes (20_memory.md R54). -/
theorem State.memRead_eq {s : State} {addr n : Nat} {ys : List Byte} (hlen : ys.length = n)
    (h : ∀ k, k < n → s.BUF.read? (addr + k) = ys[k]?) : s.memRead addr n = ys := by
  refine List.ext_getElem (by simp [hlen]) fun k hk hk' => ?_
  have hread : s.BUF.read? (addr + k) = some ys[k] := (h k (by omega)).trans (List.getElem?_eq_getElem hk')
  simpa [State.memRead] using State.bufByte_of_read? hread

/-- BV.CONSTRUCT of wire bits in range writes them (R102). -/
theorem exec_bvConstruct_wireBits {s : State} (hrun : s.FAULT = 0) (rd : BReg) {n addr : Nat}
    (hin : addr + n ≤ s.cfg.bufBytes) (hcap : n ≤ s.cfg.bvCap)
    (hwire : ∀ y ∈ s.memRead addr n, isWireBit y = true) :
    EndsIn (exec (.bvConstruct rd n addr) s) fun t => WroteReg s t rd ((s.memRead addr n).map fun y => y == 1) :=
  ⟨_, exec_effect hrun ⟨hin, hcap⟩ fun _ _ _ h => by cases h; exact hwire, wroteReg_writeB ..⟩

/-- Settles O19: the two range checks, then the bytes that BUF holds. -/
theorem constructReadsWireBits : Obligations.ConstructReadsWireBits := by
  intro rd n addr s hrun
  refine ⟨fun h => endsIn_faulted (exec_bvConstruct_bufferRange hrun rd h),
    fun hin h => endsIn_faulted (exec_bvConstruct_capacityOverflow hrun rd hin h), fun ys hlen hin hcap hread => ?_⟩
  obtain rfl : s.memRead addr n = ys := State.memRead_eq hlen hread
  refine ⟨fun k bad hk h0 h1 hbefore => ?invalid, fun hwire => ?wire⟩
  case invalid =>
    exact endsIn_erred (exec_bvConstruct_invalidBit hrun rd hin hcap
      (find?_not_wireBit_iff.2 ⟨k, hk, h0, h1, hbefore⟩))
  case wire =>
    obtain ⟨t, ht, hwrote⟩ := exec_bvConstruct_wireBits hrun rd hin hcap fun y hy => (isWireBit_iff y).2 (hwire y hy)
    exact ⟨t, ht, _, hwrote, by simp, fun k y hy => by simp only [List.getElem?_map, hy, Option.map_some]⟩

/-- Settles O20: the bytes are those that the command finds, and the first of them that is no wire bit decides. -/
theorem constructTakesAnyValueForUnwrittenBytes : Obligations.ConstructTakesAnyValueForUnwrittenBytes := by
  intro rd n addr s hrun hin hcap
  refine ⟨s.memRead addr n, s.memRead_length addr n, fun k y hk hy => ?written, ?outcome⟩
  case written => rw [State.memRead_getElem?, if_pos hk, State.bufByte_of_read? hy]
  case outcome =>
    cases hfind : (s.memRead addr n).find? (fun y => !isWireBit y) with
    | none =>
      have hwire : ∀ y ∈ s.memRead addr n, isWireBit y = true := by simpa using hfind
      exact .inl ⟨fun y hy => (isWireBit_iff y).1 (hwire y hy), exec_bvConstruct_wireBits hrun rd hin hcap hwire⟩
    | some bad =>
      obtain ⟨k, hk, h0, h1, hbefore⟩ := find?_not_wireBit_iff.1 hfind
      exact .inr ⟨k, bad, hk, h0, h1, hbefore, endsIn_erred (exec_bvConstruct_invalidBit hrun rd hin hcap hfind)⟩

/-- Settles O31: the command stores `pack` of its register. -/
theorem packStoresBytesMsbFirst : Obligations.PackStoresBytesMsbFirst := by
  intro ra addr s hrun
  rw [← pack_length]
  exact ⟨fun hin => ⟨_, exec_effect hrun hin nofun, _, storedBytes_memWrite .., isPacking_pack _⟩,
    fun h => endsIn_faulted (exec_bvPack_bufferRange hrun h)⟩

/-- Storing the wire bytes of a sequence and constructing from the same bytes gives the sequence back (R115). -/
theorem exec_bvConstruct_storedBytes {s t : State} {rd : BReg} {v : BitSeq} {addr : Nat} (hrun : s.FAULT = 0)
    (hin : addr + v.length ≤ s.cfg.bufBytes) (hcap : v.length ≤ s.cfg.bvCap)
    (hstored : StoredBytes s t addr (v.map wireByte)) :
    EndsIn (exec (.bvConstruct rd v.length addr) t) fun u => u.readB rd = v := by
  obtain ⟨-, -, -, hbytes, -, hframe⟩ := hstored
  have hcfg : t.cfg = s.cfg := (congrArg State.cfg hframe :)
  have hfault : t.FAULT = s.FAULT := (congrArg State.FAULT hframe :)
  have hlen : (v.map wireByte).length = v.length := List.length_map _
  have hmem : t.memRead addr v.length = v.map wireByte := State.memRead_eq hlen (hlen ▸ hbytes)
  have hwire : ∀ y ∈ t.memRead addr v.length, isWireBit y = true := by
    rw [hmem, List.forall_mem_map]
    exact fun bit _ => isWireBit_wireByte bit
  obtain ⟨u, hu, hwrote, -⟩ := exec_bvConstruct_wireBits (hfault.trans hrun) rd (hcfg ▸ hin) (hcfg ▸ hcap) hwire
  exact ⟨u, hu, hwrote.trans (hmem ▸ map_beq_one_wireByte v)⟩

/-- Settles O32: the command stores the wire bytes of its register. -/
theorem storeWritesWireBytes : Obligations.StoreWritesWireBytes := by
  intro ra addr s hrun
  have hlen : ((s.readB ra).map wireByte).length = (s.readB ra).length := List.length_map _
  refine ⟨fun hin => ?stores, fun h => endsIn_faulted (exec_bvStore_bufferRange hrun (by rwa [hlen]))⟩
  case stores =>
    have hchecks : commandChecks s (.bvStore ra addr) := by rwa [commandChecks, hlen]
    have hstored := storedBytes_memWrite s addr ((s.readB ra).map wireByte)
    refine ⟨_, exec_effect hrun hchecks nofun, ⟨_, hstored, hlen, fun j bit hbit => ?_⟩,
      fun hcap rd => exec_bvConstruct_storedBytes hrun hin hcap hstored⟩
    rw [List.getElem?_map, hbit]
    rfl

end Sys2Proof.Machine
end

section
/-! PROOFS. The BVU commands that stay inside the register file and RES: the two outcomes of each (40_bitvector.md R103 to
R112, R116, R117). -/

namespace Sys2Proof.Machine

theorem zext64_toNat (bit : Bit) : zext64 bit.toNat = if bit then 1 else 0 := by cases bit <;> rfl

/-- Settles O21: below the length the index names an element, and RES gets that one. -/
theorem getReadsOneBit : Obligations.GetReadsOneBit := by
  intro ra i s hrun
  refine ⟨fun bit hbit => ?_, fun h => endsIn_faulted (exec_bvGet_indexRange hrun h)⟩
  obtain ⟨hi, rfl⟩ := List.getElem?_eq_some_iff.1 hbit
  have heffect : commandEffect s (.bvGet ra i) = s.writeRes (if (s.readB ra)[i] then 1 else 0) := by
    simp [commandEffect, hi, zext64_toNat]
  exact ⟨_, exec_effect hrun hi nofun, heffect ▸ wroteRes_writeRes ..⟩

/-- Settles O22: the written sequence is `List.set` of the old one. -/
theorem setReplacesOneBit : Obligations.SetReplacesOneBit := by
  intro rd i bit s hrun
  refine ⟨fun hi => ⟨_, exec_effect hrun hi nofun, _, wroteReg_writeB .., ?_⟩,
    fun h => endsIn_faulted (exec_bvSet_indexRange hrun bit h)⟩
  rw [slices_set _ _ hi]
  exact ⟨List.length_set, List.getElem?_set_self hi, fun j hj => List.getElem?_set_ne hj.symm⟩

/-- Settles O23: the written sequence is `List.insertIdx` of the old one. -/
theorem insertMovesTheTailUp : Obligations.InsertMovesTheTailUp := by
  intro rd i bit s hrun
  refine ⟨fun h => endsIn_faulted (exec_bvInsert_indexRange hrun bit h),
    fun hi h => endsIn_faulted (exec_bvInsert_capacityOverflow hrun bit hi h),
    fun hi hcap => ⟨_, exec_effect hrun ⟨hi, hcap⟩ nofun, _, wroteReg_writeB .., ?_⟩⟩
  rw [slices_insertIdx _ _ hi]
  refine ⟨List.length_insertIdx_of_le_length hi bit, ?_, fun j hj => List.getElem?_insertIdx_of_lt hj, fun j hj => ?_⟩
  · rw [List.getElem?_insertIdx_self, if_pos hi]
  · exact List.getElem?_insertIdx_of_gt (Nat.lt_succ_of_le hj)

/-- Settles O24: the written sequence is the old one and then the bit. -/
theorem appendAddsAfterTheTail : Obligations.AppendAddsAfterTheTail := by
  intro rd bit s hrun
  refine ⟨fun hcap => ⟨_, exec_effect hrun hcap nofun, _, wroteReg_writeB .., List.length_append, ?_, fun j hj => ?_⟩,
    fun h => endsIn_faulted (exec_bvAppend_capacityOverflow hrun bit h)⟩
  · exact List.getElem?_concat_length
  · exact List.getElem?_append_left hj

/-- Settles O25: the written sequence is the old one with n zeros appended. -/
theorem shiftLeftAppendsZeros : Obligations.ShiftLeftAppendsZeros := by
  intro rd n s hrun
  refine ⟨fun hcap => ⟨_, exec_effect hrun hcap nofun, _, wroteReg_writeB .., ?length, fun j hj => ?old,
      fun j hlo hhi => ?new, bitsToNat_append_zeros ..⟩,
    fun h => endsIn_faulted (exec_bvShl_capacityOverflow hrun h)⟩
  case length => rw [List.length_append, zeros_length]
  case old => exact List.getElem?_append_left hj
  case new => rw [List.getElem?_append_right hlo, zeros_getElem?, if_pos (by omega)]

/-- BV.SHR whose check holds puts n zeros before all but the last n bits (R108). -/
theorem exec_bvShr_shifts {s : State} (hrun : s.FAULT = 0) {rd : BReg} {n : Nat} (h : n ≤ (s.readB rd).length) :
    EndsIn (exec (.bvShr rd n) s) fun t =>
      WroteReg s t rd (zeros n ++ (s.readB rd).take ((s.readB rd).length - n)) := by
  rw [← shiftRight_eq _ _ h]
  exact ⟨_, exec_effect hrun h nofun, wroteReg_writeB ..⟩

/-- Settles O26: the written sequence is n zeros and then the old one without its last n bits. -/
theorem shiftRightKeepsTheLength : Obligations.ShiftRightKeepsTheLength := by
  intro rd n s hrun
  refine ⟨fun hn => ?_, fun h => endsIn_faulted (exec_bvShr_shiftRange hrun h)⟩
  obtain ⟨t, ht, hwrote⟩ := exec_bvShr_shifts hrun hn
  refine ⟨t, ht, _, hwrote, ?length, fun j hj => ?zero, fun j hlo hhi => ?old⟩
  case length => rw [List.length_append, zeros_length, List.length_take]; omega
  case zero => rw [List.getElem?_append_left (by simpa using hj), zeros_getElem?, if_pos hj]
  case old =>
    rw [List.getElem?_append_right (by simpa using hlo), zeros_length, List.getElem?_take_of_lt (by omega)]

/-- Settles O34: all but the last n bits of the old sequence with n zeros appended are the old sequence. -/
theorem shiftsAreNotInverse : Obligations.ShiftsAreNotInverse := by
  intro rd n s hrun hcap
  refine ⟨_, exec_effect hrun hcap nofun, ?_⟩
  generalize hshl : ({ commandEffect s (.bvShl rd n) with STATUS := 0, INFO := 0 } : State) = t
  have hread : t.readB rd = s.readB rd ++ zeros n := hshl ▸ s.readB_writeB_self rd _
  have htrun : t.FAULT = 0 := hshl ▸ hrun
  obtain ⟨u, hu, hwrote, -⟩ := exec_bvShr_shifts htrun (rd := rd) (n := n) (by simp [hread])
  exact ⟨u, hu, by simp [hwrote, hread, zeros]⟩

/-- Settles O27: both commands write `reverseChunks` of their source. -/
theorem reverseOrdersChunksBackwards : Obligations.ReverseOrdersChunksBackwards := fun _ _ _ hrun =>
  ⟨⟨_, exec_effect hrun trivial nofun, _, wroteReg_writeB .., isChunkReversal_reverseChunks _⟩,
    ⟨_, exec_effect hrun trivial nofun, _, wroteReg_writeB .., isChunkReversal_reverseChunks _⟩⟩

/-- Settles O29: the written sequence is `xorSeq` of the two sources. -/
theorem xorIsElementwise : Obligations.XorIsElementwise := by
  intro rd ra rb s hrun
  refine ⟨fun h => endsIn_erred (exec_bvXor_lengthMismatch hrun rd h),
    fun h => ⟨_, exec_effect hrun h nofun, _, wroteReg_writeB .., ?_, fun j x y => xorSeq_getElem? _ _ j⟩⟩
  rw [xorSeq_length, ← h, Nat.min_self]

/-- Settles O30: the four laws are laws of `xorSeq`. -/
theorem xorLaws : Obligations.XorLaws := by
  refine ⟨fun rd ra s hrun => ?self, fun x y z hxy _ => ⟨xorSeq_comm x y, xorSeq_assoc x y z, xorSeq_cancel hxy⟩⟩
  case self =>
    rw [← xorSeq_self]
    exact ⟨_, exec_effect hrun rfl nofun, wroteReg_writeB ..⟩

/-- Settles O33: BV.LEN has no check, so it always has its effect. -/
theorem lenReadsTheLength : Obligations.LenReadsTheLength := fun _ _ hrun =>
  ⟨_, exec_effect hrun trivial nofun, wroteRes_writeRes ..⟩

end Sys2Proof.Machine
end

section
/-! PROOFS. The permutations and rotations of the DESU tables (41_des_tables.md R140 to R142, R148; 42_des_engine.md R161). -/

namespace Sys2Proof.Machine

/-- The bit that entry number j of a table gathers, the entries counted from 1 as R140 counts them. -/
theorem permute_getLsbD_entry {n W j t : Nat} {table : List Nat} (x : BitVec W) (hlen : table.length = n) (hj : 1 ≤ j)
    (ht : table[j - 1]? = some t) : (permute n table x).getLsbD (n - j) = x.getLsbD (W - t) := by
  obtain ⟨hlt, rfl⟩ := List.getElem?_eq_some_iff.1 ht
  have hindex : table.length - 1 - (n - j) = j - 1 := by omega
  rw [permute_getLsbD n table x (n - j) (by omega) (by omega)]
  simp only [hindex]

/-- Settles O35: the tables of the statement have as many entries as the result has bits. -/
theorem permuteGathersBits : Obligations.PermuteGathersBits :=
  fun _ _ x _ _ _ hj ht => permute_getLsbD_entry x rfl hj ht

/-- If each entry t of B, at number j, names the entry of A that is j, then permuting by A and then by B gives the value back:
bit n - j comes from bit n - t, and that one from bit n - j. -/
theorem permute_permute_of_inverse {n : Nat} {A B : List Nat} (hA : A.length = n) (hB : B.length = n)
    (hinv : ∀ e ∈ B.zipIdx 1, 1 ≤ e.1 ∧ A[e.1 - 1]? = some e.2) (x : BitVec n) :
    permute n B (permute n A x) = x := by
  apply BitVec.eq_of_getLsbD_eq
  intro i hi
  obtain ⟨j, hj, hjn, rfl⟩ : ∃ j, 1 ≤ j ∧ j ≤ n ∧ i = n - j := ⟨n - i, by omega, by omega, by omega⟩
  obtain ⟨t, hBj⟩ : ∃ t, B[j - 1]? = some t := ⟨_, List.getElem?_eq_getElem (by omega)⟩
  obtain ⟨ht, hAt⟩ := hinv (t, j) (List.mk_mem_zipIdx_iff_le_and_getElem?_sub.2 ⟨hj, hBj⟩)
  calc (permute n B (permute n A x)).getLsbD (n - j)
      = (permute n A x).getLsbD (n - t) := permute_getLsbD_entry _ hB hj hBj
    _ = x.getLsbD (n - j) := permute_getLsbD_entry x hA ht hAt

/-- Settles O36: each of the two tables lists where the other one has its entries. -/
theorem finalPermutationInvertsInitial : Obligations.FinalPermutationInvertsInitial := fun x =>
  ⟨permute_permute_of_inverse (n := 64) rfl rfl (by decide) x,
    permute_permute_of_inverse (n := 64) rfl rfl (by decide) x⟩

theorem rotateLeft_zero {w : Nat} (x : BitVec w) : x.rotateLeft 0 = x := by
  simp [BitVec.rotateLeft_def, BitVec.ushiftRight_eq_zero]

/-- Two rotations to the left are one by the sum of the amounts. -/
theorem rotateLeft_rotateLeft {w : Nat} (x : BitVec w) (m n : Nat) :
    (x.rotateLeft m).rotateLeft n = x.rotateLeft (m + n) := by
  ext i hi
  have hm := Nat.mod_lt m (Nat.zero_lt_of_lt hi)
  have hn := Nat.mod_lt n (Nat.zero_lt_of_lt hi)
  simp only [BitVec.getElem_rotateLeft, Nat.add_mod_eq_ite]
  split_ifs <;> congr 1 <;> omega

/-- `rotl28` is the library's rotation for every amount less than the width (R161). -/
theorem rotl28_eq_rotateLeft (x : BitVec 28) {n : Nat} (hn : n < 28) : rotl28 x n = x.rotateLeft n := by
  rw [rotl28, BitVec.rotateLeft_def, Nat.mod_eq_of_lt hn]

/-- Rotations of a half in turn add up (R161). -/
theorem foldl_rotl28 {amounts : List Nat} (hlt : ∀ n ∈ amounts, n < 28) (x : BitVec 28) :
    amounts.foldl rotl28 x = x.rotateLeft amounts.sum := by
  induction amounts generalizing x with
  | nil => exact (rotateLeft_zero x).symm
  | cons n rest ih =>
    obtain ⟨hn, hrest⟩ := List.forall_mem_cons.1 hlt
    rw [List.foldl_cons, ih hrest, rotl28_eq_rotateLeft x hn, rotateLeft_rotateLeft, List.sum_cons]

/-- Settles O39: the amounts sum to 28, the width of a half. -/
theorem rotationsReturnTheHalves : Obligations.RotationsReturnTheHalves := by
  intro x
  have hsum : shiftAmounts.sum = 28 := by decide
  rw [foldl_rotl28 (by decide), hsum, ← BitVec.rotateLeft_mod_eq_rotateLeft, Nat.mod_self,
    rotateLeft_zero]

end Sys2Proof.Machine
end

section
/-! PROOFS. The substitution layer: the eight results are the hexadecimal digits of the output, and every group selects an entry
of its table (42_des_engine.md R162). -/

namespace Sys2Proof.Machine

/-- The digit of weight b^(n - 1 - k) of a number put together from its most significant digit on is digit number k. -/
theorem foldl_digits_div_mod {b : Nat} {f : Nat → Nat} (hf : ∀ j, f j < b) {n k : Nat} (hk : k < n) :
    (List.range n).foldl (fun y j => b * y + f j) 0 / b ^ (n - 1 - k) % b = f k := by
  have hb : 0 < b := Nat.zero_lt_of_lt (hf 0)
  induction n with
  | zero => omega
  | succ n ih =>
    rw [List.range_succ, List.foldl_append, List.foldl_cons, List.foldl_nil]
    obtain rfl | hlt : k = n ∨ k < n := by omega
    case inl => simp [Nat.mod_eq_of_lt (hf k)]
    case inr =>
      rw [show n + 1 - 1 - k = (n - 1 - k) + 1 by omega, Nat.pow_succ', ← Nat.div_div_eq_div_mul,
        Nat.mul_add_div hb, Nat.div_eq_of_lt (hf n), Nat.add_zero, ih hlt]

/-- A bit field of a number inside a register is that number's quotient and remainder. -/
theorem extractLsb'_ofNat_toNat {w start len : Nat} (h : start + len ≤ w) (x : Nat) :
    ((BitVec.ofNat w x).extractLsb' start len).toNat = x / 2 ^ start % 2 ^ len := by
  obtain ⟨d, rfl⟩ := Nat.exists_eq_add_of_le h
  rw [BitVec.extractLsb'_toNat, BitVec.toNat_ofNat, Nat.shiftRight_eq_div_pow, Nat.add_assoc, Nat.pow_add,
    Nat.mod_mul_right_div_self, Nat.pow_add, Nat.mod_mul_right_mod]

theorem extractLsb'_one_toNat {w : Nat} (x : BitVec w) (i : Nat) :
    (x.extractLsb' i 1).toNat = (x.getLsbD i).toNat := by
  rw [BitVec.extractLsb'_toNat, BitVec.getLsbD, Nat.toNat_testBit, Nat.shiftRight_eq_div_pow, Nat.pow_one]

/-- Every substitution table has 4 rows of 16 entries, and every entry is 4 bits wide (R147). -/
theorem substitutionTables_shape :
    ∀ table ∈ substitutionTables, table.length = 4 ∧ ∀ row ∈ table, row.length = 16 ∧ ∀ entry ∈ row, entry < 16 := by
  decide

theorem sboxRow_lt (g : BitVec 6) : sboxRow g < 4 := by
  have h0 := (g.getLsbD 0).toNat_lt
  have h5 := (g.getLsbD 5).toNat_lt
  rw [sboxRow]
  omega

/-- A 6-bit group selects an existing 4-bit entry of every substitution table (R162). -/
theorem sboxEntry_selects {table : List (List Nat)} (htable : table ∈ substitutionTables) (g : BitVec 6) :
    ∃ row, table[sboxRow g]? = some row ∧ row[sboxCol g]? = some (sboxEntry table g) ∧ sboxEntry table g < 16 := by
  obtain ⟨hrows, hshape⟩ := substitutionTables_shape table htable
  have hr : sboxRow g < table.length := hrows ▸ sboxRow_lt g
  obtain ⟨hcols, hentries⟩ := hshape _ (List.getElem_mem hr)
  have hc : sboxCol g < table[sboxRow g].length := hcols ▸ BitVec.isLt _
  have hentry : sboxEntry table g = table[sboxRow g][sboxCol g] := by simp [sboxEntry, hr, hc]
  rw [hentry]
  exact ⟨_, List.getElem?_eq_getElem hr, List.getElem?_eq_getElem hc, hentries _ (List.getElem_mem hc)⟩

/-- Outside the eight tables nothing is selected, so every summand of the S-box fold is 4 bits wide. -/
theorem sboxEntry_getD_lt (j : Nat) (g : BitVec 6) : sboxEntry (substitutionTables.getD j []) g < 16 := by
  by_cases hj : j < substitutionTables.length
  · obtain ⟨-, -, -, hlt⟩ := sboxEntry_selects (List.getElem_mem hj) g
    simpa [hj] using hlt
  · simp [sboxEntry, Nat.le_of_not_lt hj]

/-- Nibble number k of the output, the most significant one first, is the entry that group k + 1 selects (R162). -/
theorem sbox_nibble (x : BitVec 48) {k : Nat} (hk : k < 8) :
    ((sbox x).extractLsb' (28 - 4 * k) 4).toNat = sboxEntry (substitutionTables.getD k []) (sboxGroup x (k + 1)) := by
  rw [sbox, extractLsb'_ofNat_toNat (by omega), show 28 - 4 * k = 4 * (8 - 1 - k) by omega, Nat.pow_mul]
  exact foldl_digits_div_mod (fun j => sboxEntry_getD_lt j (sboxGroup x (j + 1))) hk

/-- Settles O37: group j selects an entry of table j, and that entry is nibble j of the output. -/
theorem sboxUsesEachTable : Obligations.SboxUsesEachTable := by
  intro x j hj1 hj8 g
  obtain ⟨k, rfl⟩ := Nat.exists_eq_add_of_le' hj1
  have hk : k < substitutionTables.length := hj8
  have hg : sboxGroup x (k + 1) = g := by simp only [g, sboxGroup]; congr 1; omega
  obtain ⟨row, hrow, hentry, -⟩ := sboxEntry_selects (List.getElem_mem hk) g
  refine ⟨_, row, _, List.getElem?_eq_getElem hk, ?row, hentry, ?nibble⟩
  case row => rwa [extractLsb'_one_toNat, extractLsb'_one_toNat]
  case nibble => simpa [hg, hk] using sbox_nibble x hj8

end Sys2Proof.Machine
end

section
/-! PROOFS. The key schedule: accumulated rotations and ignored key bits (42_des_engine.md R161, R173). -/

namespace Sys2Proof.Machine

/-- Subkey i is made of the halves rotated by the sum of the first i + 1 amounts (R161). -/
theorem subkeysFrom_getElem? {amounts : List Nat} (hlt : ∀ n ∈ amounts, n < 28) (C D : BitVec 28) {i : Nat}
    (hi : i < amounts.length) :
    (subkeysFrom amounts C D)[i]? =
      some (subkeyOf (C.rotateLeft (amounts.take (i + 1)).sum) (D.rotateLeft (amounts.take (i + 1)).sum)) := by
  induction amounts generalizing C D i with
  | nil => simp at hi
  | cons n rest ih =>
    obtain ⟨hn, hrest⟩ := List.forall_mem_cons.1 hlt
    rw [subkeysFrom, rotl28_eq_rotateLeft C hn, rotl28_eq_rotateLeft D hn]
    cases i with
    | zero => simp
    | succ i =>
      rw [List.getElem?_cons_succ, ih hrest _ _ (Nat.lt_of_succ_lt_succ hi), rotateLeft_rotateLeft, rotateLeft_rotateLeft,
        List.take_succ_cons, List.sum_cons]

/-- Settles O40: the schedule is the list of subkeys of the 16 amounts. -/
theorem scheduleAccumulatesRotations : Obligations.ScheduleAccumulatesRotations := by
  intro key i hi
  rw [← Vector.getElem?_toList, schedule_toList]
  exact subkeysFrom_getElem? (by decide) (keyHalfC key) (keyHalfD key) hi

/-- A permuted value depends only on the bits that the table selects (R140). -/
theorem permute_congr (n : Nat) {table : List Nat} {W : Nat} {x y : BitVec W}
    (h : ∀ t ∈ table, x.getLsbD (W - t) = y.getLsbD (W - t)) : permute n table x = permute n table y := by
  rw [permute_eq, permute_eq, List.map_congr_left h]

/-- PC-1 selects no bit whose number is a multiple of 8 (R143). -/
theorem tablePC1_skips_parity : ∀ t ∈ tablePC1, (64 - t) % 8 ≠ 0 := by decide

/-- Settles O41: PC-1 of the two keys is the same, and the key enters the schedule through PC-1 alone. -/
theorem eightKeyBitsAreIgnored : Obligations.EightKeyBitsAreIgnored := by
  intro key key' hbits
  have hPC1 : permute 56 tablePC1 key = permute 56 tablePC1 key' :=
    permute_congr 56 fun t ht => hbits (64 - t) (tablePC1_skips_parity t ht)
  have hK : schedule key = schedule key' := schedule_congr hPC1
  exact ⟨hK, fun x => congrArg (encryptBlock x) hK⟩

end Sys2Proof.Machine
end

section
/-! PROOFS. The Feistel rounds and the block: what 16 rounds compute and how the reverse subkey order undoes them
(42_des_engine.md R163 to R166, R172). -/

namespace Sys2Proof.Machine

/-- A round on the swapped result of a round with the same subkey gives the swapped pair back (R164). -/
theorem feistelRound_swap_feistelRound (LR : BitVec 32 × BitVec 32) (k : BitVec 64) :
    feistelRound (feistelRound LR k).swap k = LR.swap := by
  obtain ⟨L, R⟩ := LR
  simp

/-- Settles O38: the two components of a round, and the round function's value cancels against itself. -/
theorem feistelRoundInverts : Obligations.FeistelRoundInverts := by
  intro L R k L' R' h
  obtain ⟨rfl, rfl⟩ := Prod.mk.inj (h.symm.trans (feistelRound_mk L R k))
  exact ⟨rfl, rfl, congrArg Prod.swap (feistelRound_swap_feistelRound (L, L') k)⟩

/-- The rounds with the subkeys backwards undo the rounds, up to the swaps before and after (R172). -/
theorem foldl_feistelRound_reverse (subkeys : List (BitVec 64)) (LR : BitVec 32 × BitVec 32) :
    subkeys.reverse.foldl feistelRound (subkeys.foldl feistelRound LR).swap = LR.swap := by
  induction subkeys generalizing LR with
  | nil => rfl
  | cons k rest ih =>
    rw [List.reverse_cons, List.foldl_append, List.foldl_cons (l := rest), ih]
    exact feistelRound_swap_feistelRound LR k

/-- Any halves that obey the round equation are the halves that the rounds compute (R164). -/
theorem foldl_feistelRound_eq {subkeys : List (BitVec 64)} {L R : Nat → BitVec 32}
    (h : ∀ j k, subkeys[j]? = some k → feistelRound (L j, R j) k = (L (j + 1), R (j + 1))) :
    subkeys.foldl feistelRound (L 0, R 0) = (L subkeys.length, R subkeys.length) := by
  induction subkeys using List.reverseRecOn with
  | nil => rfl
  | append_singleton front k ih =>
    have hfront : front.foldl feistelRound (L 0, R 0) = (L front.length, R front.length) :=
      ih fun j k' hk' => h j k' ((List.getElem?_append_left (List.getElem?_eq_some_iff.1 hk').1).trans hk')
    have hlast := h front.length k (by simp)
    simp [hfront, hlast]

/-- One block in terms of the two halves of the IP output (R165). -/
theorem cryptBlock_of_halves {x : BitVec 64} {L R : BitVec 32} (h : L ++ R = permute 64 tableIP x)
    (subkeys : List (BitVec 64)) :
    cryptBlock x subkeys =
      permute 64 tableFP ((subkeys.foldl feistelRound (L, R)).2 ++ (subkeys.foldl feistelRound (L, R)).1) := by
  rw [cryptBlock, ← h, BitVec.extractLsb'_append_eq_left, BitVec.extractLsb'_append_eq_right]

/-- 16 rounds of halves that obey the round equation are one block (R163, R165). -/
theorem cryptBlock_of_rounds {x : BitVec 64} {subkeys : List (BitVec 64)} {L R : Nat → BitVec 32}
    (h0 : L 0 ++ R 0 = permute 64 tableIP x) (hlen : subkeys.length = 16)
    (h : ∀ j k, subkeys[j]? = some k →
      L (j + 1) = R j ∧
        R (j + 1) = L j ^^^ permute 32 tableP (sbox (permute 48 tableE (R j) ^^^ k.extractLsb' 0 48))) :
    cryptBlock x subkeys = permute 64 tableFP (R 16 ++ L 16) := by
  have hrounds : ∀ j k, subkeys[j]? = some k → feistelRound (L j, R j) k = (L (j + 1), R (j + 1)) := by
    intro j k hk
    obtain ⟨hL, hR⟩ := h j k hk
    rw [hL, hR, feistelRound_mk, roundF, BitVec.setWidth_eq_extractLsb' (by decide)]
  rw [cryptBlock_of_halves h0, foldl_feistelRound_eq hrounds, hlen]

/-- Settles O42: encryption takes the subkeys in order; in the reverse order subkey j is the old subkey 15 - j. -/
theorem blockRunsSixteenRounds : Obligations.BlockRunsSixteenRounds := by
  intro x K L R h0
  refine ⟨fun h => cryptBlock_of_rounds h0 (by simp) fun j k hk => h j k ?enc,
    fun h => cryptBlock_of_rounds h0 (by simp) fun j k hk => ?dec⟩
  case enc => rwa [← Vector.getElem?_toList]
  case dec =>
    have hj : j < 16 := by simpa using (List.getElem?_eq_some_iff.1 hk).1
    refine h j k hj ?_
    rwa [List.getElem?_reverse (by simpa using hj), Vector.length_toList, Vector.getElem?_toList] at hk

/-- A block under the subkeys backwards undoes the block under the subkeys (R172). -/
theorem cryptBlock_reverse (x : BitVec 64) (subkeys : List (BitVec 64)) :
    cryptBlock (cryptBlock x subkeys) subkeys.reverse = x := by
  obtain ⟨L, R, hLR⟩ : ∃ L R : BitVec 32, L ++ R = permute 64 tableIP x :=
    ⟨_, _, BitVec.extractLsb'_append_extractLsb' (w := 32) (len := 32)⟩
  have hback := foldl_feistelRound_reverse subkeys (L, R)
  have hblock := cryptBlock_of_halves hLR subkeys
  generalize subkeys.foldl feistelRound (L, R) = LR at hback hblock
  have hIP : LR.2 ++ LR.1 = permute 64 tableIP (cryptBlock x subkeys) := by
    rw [hblock, (finalPermutationInvertsInitial _).2]
  calc cryptBlock (cryptBlock x subkeys) subkeys.reverse
      = permute 64 tableFP (L ++ R) := by rw [cryptBlock_of_halves hIP, ← Prod.swap, hback]; rfl
    _ = x := by rw [hLR, (finalPermutationInvertsInitial x).1]

theorem decryptBlock_encryptBlock (x : BitVec 64) (K : Vector (BitVec 64) 16) :
    decryptBlock (encryptBlock x K) K = x := cryptBlock_reverse x K.toList

theorem encryptBlock_decryptBlock (x : BitVec 64) (K : Vector (BitVec 64) 16) :
    encryptBlock (decryptBlock x K) K = x := by
  have hback := cryptBlock_reverse x K.toList.reverse
  rwa [List.reverse_reverse] at hback

end Sys2Proof.Machine
end

section
/-! PROOFS. The four DESU commands: the engine check, the lazy schedule and the block in RES (42_des_engine.md R167 to R172). -/

namespace Sys2Proof.Machine

/-- With the subkeys computed there is nothing to make sure of (R168). -/
theorem State.ensureSchedule_scheduled {s : State} (h : s.desScheduled = true) : s.ensureSchedule = s := if_pos h

/-- Without computed subkeys they are computed from the key (R168). -/
theorem State.ensureSchedule_unscheduled {s : State} (h : s.desScheduled = false) :
    s.ensureSchedule = { s with K := schedule s.desKey, desScheduled := true } := if_neg (by simp [h])

/-- In a state with the invariant the subkeys at hand are those of the key (R171). -/
theorem State.Inv.ensureSchedule_K {s : State} (hs : s.Inv) : s.ensureSchedule.K = schedule s.desKey := by
  rw [State.ensureSchedule_K]
  split
  case isTrue h => exact hs.scheduleFresh h
  case isFalse => rfl

/-- Without a loaded key the engine check faults (60_exceptions.md R242). -/
theorem State.whenDesValid_unloaded {s : State} (h : s.desValid = false) (i : Instr) (r : Result) :
    s.whenDesValid i r = s.takeFault .engineNotInitialized (i.opcode.setWidth 32) := if_neg (by simp [h])

/-- Settles O44: DES.LOADKEY has no check, so it always has its effect. -/
theorem loadKeyMakesANewEngine : Obligations.LoadKeyMakesANewEngine := fun _ _ hrun =>
  ⟨_, exec_effect hrun trivial nofun, rfl, fun _ hk => List.eq_of_mem_replicate (Vector.toList_replicate ▸ hk),
    rfl, rfl, rfl, rfl, rfl⟩

section
variable {s : State} (hrun : s.FAULT = 0)
include hrun

theorem exec_desSched_unloaded (h : s.desValid = false) :
    exec .desSched s = s.takeFault .engineNotInitialized 0x21 :=
  (s.unlessHalted_running hrun _).trans (s.whenDesValid_unloaded h .desSched _)

theorem exec_desEnc_unloaded (block : BitVec 64) (h : s.desValid = false) :
    exec (.desEnc block) s = s.takeFault .engineNotInitialized 0x22 :=
  (s.unlessHalted_running hrun _).trans (s.whenDesValid_unloaded h (.desEnc block) _)

theorem exec_desDec_unloaded (block : BitVec 64) (h : s.desValid = false) :
    exec (.desDec block) s = s.takeFault .engineNotInitialized 0x23 :=
  (s.unlessHalted_running hrun _).trans (s.whenDesValid_unloaded h (.desDec block) _)

end

/-- Settles O45: the engine check, then what there is to compute. -/
theorem schedComputesOnce : Obligations.SchedComputesOnce := by
  intro s hrun
  refine ⟨fun hkey => endsIn_faulted (exec_desSched_unloaded hrun hkey), fun hkey hsched => ?compute,
    fun hkey hsched => ?cached⟩
  case compute =>
    refine ⟨_, exec_effect hrun hkey nofun, ?_⟩
    rw [commandEffect, State.ensureSchedule_unscheduled hsched]
  case cached =>
    refine ⟨_, exec_effect hrun hkey nofun, ?_⟩
    rw [commandEffect, State.ensureSchedule_scheduled hsched]

/-- The effect of a block command that succeeds is `BlockDone`. -/
theorem blockDone_writeRes (s : State) (x : Vector (BitVec 64) 16 → BitVec 64) :
    BlockDone s { s.ensureSchedule.writeRes (x s.ensureSchedule.K) with STATUS := 0, INFO := 0 } x := by
  refine ⟨s.ensureSchedule_K, rfl, s.ensureSchedule_desScheduled, rfl, rfl, ?frame⟩
  case frame => unfold State.ensureSchedule; split <;> rfl

section
variable {s : State} (hrun : s.FAULT = 0) (hkey : s.desValid = true) (block : BitVec 64)
include hrun hkey

theorem exec_desEnc_loaded : EndsIn (exec (.desEnc block) s) fun t => BlockDone s t (encryptBlock block) :=
  ⟨_, exec_effect hrun hkey nofun, blockDone_writeRes s (encryptBlock block)⟩

theorem exec_desDec_loaded : EndsIn (exec (.desDec block) s) fun t => BlockDone s t (decryptBlock block) :=
  ⟨_, exec_effect hrun hkey nofun, blockDone_writeRes s (decryptBlock block)⟩

end

/-- Settles O46: the engine check, then the block under the subkeys at hand. -/
theorem blockCommandsUseTheSchedule : Obligations.BlockCommandsUseTheSchedule := fun block _ hrun =>
  ⟨fun hkey => ⟨endsIn_faulted (exec_desEnc_unloaded hrun block hkey),
      endsIn_faulted (exec_desDec_unloaded hrun block hkey)⟩,
    fun hkey => ⟨exec_desEnc_loaded hrun hkey block, exec_desDec_loaded hrun hkey block⟩⟩

/-- Settles O43: the block after DES.ENC stands under the subkeys that DES.DEC then finds computed. -/
theorem blockCipherRoundTrip : Obligations.BlockCipherRoundTrip := by
  refine ⟨fun x K => ⟨decryptBlock_encryptBlock x K, encryptBlock_decryptBlock x K⟩, fun block s hrun hkey => ?commands⟩
  case commands =>
    obtain ⟨t, ht, -, hRES, hsched, -, -, hframe⟩ := exec_desEnc_loaded hrun hkey block
    have htrun : t.FAULT = s.FAULT := (congrArg State.FAULT hframe :)
    have htkey : t.desValid = s.desValid := (congrArg State.desValid hframe :)
    obtain ⟨u, hu, hK, huRES, -⟩ := exec_desDec_loaded (htrun.trans hrun) (htkey.trans hkey) t.RES
    rw [if_pos hsched] at hK
    rw [hK, hRES, decryptBlock_encryptBlock] at huRES
    exact ⟨t, ht, u, hu, huRES⟩

/-- Settles O47: the invariant makes the subkeys at hand those of the key, and a second look at the schedule finds it
computed. -/
theorem subkeyCacheIsInvisible : Obligations.SubkeyCacheIsInvisible := by
  intro block s hs hrun hkey
  refine ⟨_, exec_effect hrun hkey nofun, congrArg (encryptBlock block) hs.ensureSchedule_K,
    ⟨_, exec_effect hrun hkey nofun, congrArg (decryptBlock block) hs.ensureSchedule_K⟩,
    _, exec_effect hrun hkey nofun, ?afterSched⟩
  case afterSched =>
    generalize hu : ({ commandEffect s .desSched with STATUS := 0, INFO := 0 } : State) = u
    have hurun : u.FAULT = 0 := hu ▸ s.ensureSchedule_FAULT.trans hrun
    have hukey : u.desValid = true := hu ▸ s.ensureSchedule_desValid.trans hkey
    have husched : u.desScheduled = true := hu ▸ s.ensureSchedule_desScheduled
    have hagain : exec (.desEnc block) u = _ := exec_effect hurun hukey nofun
    rw [commandEffect, State.ensureSchedule_scheduled husched] at hagain
    exact ⟨_, hagain, hu ▸ rfl⟩

end Sys2Proof.Machine
end

section
/-! PROOFS. The update transition of the TRVU bit by bit, and the keystream of a run of updates (43_trivium_engine.md R191, R192,
R195, R199, R202). -/

namespace Sys2Proof.Machine

/-- The state bits after an update: the feedback bits at the heads of the three segments, every other bit moved up by one
(R192). -/
theorem nextSreg_getLsbD (x : BitVec 288) {i : Nat} (hi : i < 288) :
    (nextSreg x).getLsbD i =
      if i = 0 then feedback3 x else if i = 93 then feedback1 x else if i = 177 then feedback2 x
      else x.getLsbD (i - 1) := by
  rw [nextSreg, setSBit_getLsbD _ _ _ _ hi, setSBit_getLsbD _ _ _ _ hi, setSBit_getLsbD _ _ _ _ hi, rotrS_getLsbD _ _ hi]
  obtain rfl | h0 := eq_or_ne i 0
  · simp
  obtain rfl | h93 := eq_or_ne i 93
  · simp
  simp only [h0, h93, if_false]

/-- An update prepends the keystream bit from count >= 1152 on (R202). -/
theorem StreamCore.update_ks (c : StreamCore) :
    c.update.ks = (if 1152 ≤ c.count then [keystreamBit c.sreg] else []) ++ c.ks := by
  by_cases h : 1152 ≤ c.count <;> simp [StreamCore.update, warmedUp, warmupThreshold, h]

/-- Settles O48: the overwritten bits are the feedback bits of R191, and `rotrS` moves the others. -/
theorem updateIsTheTransition : Obligations.UpdateIsTheTransition := fun c =>
  ⟨fun _ hi => nextSreg_getLsbD c.sreg hi, rfl, c.update_ks⟩

/-- Settles O49, by induction on the number of updates: the last update's bit comes before all the others. -/
theorem keystreamIsNewestFirst : Obligations.KeystreamIsNewestFirst := by
  intro c n
  refine ⟨?_, (c.updates_lengths n).1⟩
  induction n with
  | zero => rfl
  | succ n ih =>
    have hcount : (c.updates n).count = c.count + n := (c.updates_lengths n).1
    rw [StreamCore.updates, StreamCore.update_ks, hcount, ih, List.range_succ, List.filter_append]
    by_cases h : 1152 ≤ c.count + n <;> simp [h]

/-- The keystream bits of a + b updates are those of a updates and then of b more (R195). -/
theorem producedBits_add (count a b : Nat) :
    producedBits count (a + b) = producedBits count a + producedBits (count + a) b := by
  simp only [producedBits]; omega

/-- `producedBits` is the p of R195, there written in integers. -/
theorem eq_producedBits {count n p : Nat} (hp : (p : Int) = max 0 ((count : Int) + n - max count 1152)) :
    p = producedBits count n := by
  simp only [producedBits, warmupThreshold]; omega

end Sys2Proof.Machine
end

section
/-! PROOFS. The six TRVU commands: the engine check, the checks of each and its effect (43_trivium_engine.md R193 to R198,
R200). -/

namespace Sys2Proof.Machine

section
variable {s : State} (hrun : s.FAULT = 0)
include hrun

/-- Without a TRV.INIT a command of the TRVU faults with its op in FINFO (60_exceptions.md R242). -/
theorem endsIn_notInitialized (h : s.trvValid = false) (i : Instr) (r : Result) :
    EndsIn (s.unlessHalted (s.whenTrvValid i r)) fun t =>
      Faulted s t .engineNotInitialized (i.opcode.setWidth 32) :=
  ⟨_, State.unlessHalted_next.2 (.inr ⟨hrun, State.whenTrvValid_next.2 (.inl ⟨h, rfl⟩)⟩), rfl⟩

/-- With a TRV.INIT a command of the TRVU goes on to its own checks (30_encoding.md R83). -/
theorem unlessHalted_whenTrvValid_initialized (h : s.trvValid = true) (i : Instr) (r : Result) :
    s.unlessHalted (s.whenTrvValid i r) = r := (s.unlessHalted_running hrun _).trans (if_pos h)

theorem exec_trvInit_invalidKeyLength {ra : BReg} (rb : BReg) (h : (s.readB ra).length ≠ 80) :
    exec (.trvInit ra rb) s = s.raiseError .invalidKeyLength (zext32 (s.readB ra).length) :=
  (s.unlessHalted_running hrun _).trans (if_pos h)

theorem exec_trvInit_invalidIvLength {ra rb : BReg} (hkey : (s.readB ra).length = 80) (h : (s.readB rb).length ≠ 80) :
    exec (.trvInit ra rb) s = s.raiseError .invalidIvLength (zext32 (s.readB rb).length) :=
  (s.unlessHalted_running hrun _).trans <| (if_neg fun hne => hne hkey).trans (if_pos h)

end

/-- Settles O50: the two length checks, then the bits of `loadKeyIv`. -/
theorem initLoadsKeyAndIv : Obligations.InitLoadsKeyAndIv := by
  intro ra rb s hrun
  refine ⟨fun hkey => endsIn_erred (exec_trvInit_invalidKeyLength hrun rb hkey),
    fun hkey hiv => endsIn_erred (exec_trvInit_invalidIvLength hrun hkey hiv),
    fun hkey hiv => ⟨_, exec_effect hrun ⟨hkey, hiv⟩ nofun, fun i hi => ?key, fun i hi => ?iv, fun i hlo hhi => ?ones,
      fun i hi => ?zeros, rfl, rfl, rfl, rfl, rfl, rfl⟩⟩
  all_goals rw [commandEffect, loadKeyIv_getLsbD _ _ _ (by omega)]
  case key => simp [hi, hkey]
  case iv => rw [if_neg (by omega), if_pos (by omega)]; simp [hi, hiv]
  case ones => rw [if_neg (by omega), if_neg (by omega)]; exact decide_eq_true hlo
  case zeros => rw [if_neg (by omega), if_neg (by omega)]; exact decide_eq_false (by omega)

/-- The effect of n updates that succeed is `UpdatesDone`. -/
theorem updatesDone_withStream (s : State) (n : Nat) :
    UpdatesDone s { s.withStream (s.stream.updates n) with STATUS := 0, INFO := 0 } n :=
  ⟨s.stream.updates_eq_iterate n, (s.stream.updates_lengths n).1, rfl, rfl, rfl⟩

section
variable {s : State} (hrun : s.FAULT = 0) (hinit : s.trvValid = true)
include hrun hinit

/-- After a TRV.INIT, TRV.WARMUP is TRV.GEN 1152 (R194). -/
theorem exec_trvWarmup_eq_trvGen : exec .trvWarmup s = exec (.trvGen 1152) s :=
  (unlessHalted_whenTrvValid_initialized hrun hinit ..).trans
    (unlessHalted_whenTrvValid_initialized hrun hinit (.trvGen 1152) _).symm

theorem exec_trvGen_capacityOverflow {n : Nat} (h : s.cfg.bvCap < s.ks.length + producedBits s.count n) :
    EndsIn (exec (.trvGen n) s) fun t => Faulted s t .capacityOverflow 0 :=
  ⟨_, (unlessHalted_whenTrvValid_initialized hrun hinit ..).trans (State.runUpdates_next.2 (.inl ⟨h, rfl⟩)), rfl⟩

theorem exec_trvGen_updates {n : Nat} (h : s.ks.length + producedBits s.count n ≤ s.cfg.bvCap) :
    EndsIn (exec (.trvGen n) s) fun t =>
      UpdatesDone s t n ∧ t.ks.length = s.ks.length + producedBits s.count n :=
  ⟨_, exec_effect hrun ⟨hinit, h⟩ nofun, updatesDone_withStream s n, (s.stream.updates_lengths n).2⟩

end

/-- Settles O51: the engine check, then the capacity check for all the new bits, then the updates. -/
theorem generateRunsUpdates : Obligations.GenerateRunsUpdates := by
  intro n s hrun
  refine ⟨fun hinit => ⟨endsIn_notInitialized hrun hinit (.trvGen n) _, endsIn_notInitialized hrun hinit .trvWarmup _⟩,
    fun hinit p => ⟨fun hp => ?gen, fun hp => ?warmup⟩⟩
  case gen =>
    obtain rfl := eq_producedBits hp
    exact ⟨exec_trvGen_capacityOverflow hrun hinit, exec_trvGen_updates hrun hinit⟩
  case warmup =>
    rw [exec_trvWarmup_eq_trvGen hrun hinit]
    obtain rfl := eq_producedBits (n := 1152) hp
    exact ⟨exec_trvGen_capacityOverflow hrun hinit, exec_trvGen_updates hrun hinit⟩

/-- Settles O52: a + b updates are a updates and then b updates, and so are the bits that they produce. -/
theorem generationSplits : Obligations.GenerationSplits := by
  intro a b s hrun hinit hcap
  rw [producedBits_add] at hcap
  refine ⟨_, exec_effect hrun ⟨hinit, by omega⟩ nofun, _, exec_effect hrun ⟨hinit, ?cap⟩ nofun,
    _, exec_effect hrun ⟨hinit, by rwa [producedBits_add]⟩ nofun, ?same⟩
  case cap =>
    obtain ⟨hcount, hks⟩ := s.stream.updates_lengths a
    show (s.stream.updates a).ks.length + producedBits (s.stream.updates a).count b ≤ s.cfg.bvCap
    rw [hks, hcount, Nat.add_assoc]
    exact hcap
  case same => simp only [commandEffect, StreamCore.updates_add]; rfl

/-- TRV.ENC and TRV.DEC are one operation behind two ops (R196, R197). -/
theorem xorsTheKeystream_of_exec {s : State} (hrun : s.FAULT = 0) {i : Instr} {rd ra : BReg}
    (hexec : exec i s = s.unlessHalted (s.whenTrvValid i (s.xorKeystream rd ra))) :
    XorsTheKeystream i (i.opcode.setWidth 32) rd ra s := by
  have hready (hinit : s.trvValid = true) : exec i s = s.xorKeystream rd ra :=
    hexec.trans (unlessHalted_whenTrvValid_initialized hrun hinit ..)
  refine ⟨fun hinit => hexec ▸ endsIn_notInitialized hrun hinit .., fun hinit hcold => ?cold,
    fun hinit hwarm hlen => ?mismatch, fun hinit hwarm hlen => ?xored⟩
  case cold => exact ⟨_, (hready hinit).trans (State.xorKeystream_next.2 (.inl ⟨hcold, rfl⟩)), rfl⟩
  case mismatch => exact ⟨_, (hready hinit).trans (State.xorKeystream_next.2 (.inr (.inl ⟨hwarm, hlen, rfl⟩))), rfl⟩
  case xored =>
    refine ⟨_, (hready hinit).trans (State.xorKeystream_next.2 (.inr (.inr ⟨hwarm, hlen, rfl⟩))), _,
      wroteReg_writeB .., ?_, fun j x k => xorSeq_getElem? _ _ j⟩
    rw [xorSeq_length, hlen, Nat.min_self]

/-- Settles O53: both commands are `xorKeystream` behind the engine check. -/
theorem streamCommandsXorTheKeystream : Obligations.StreamCommandsXorTheKeystream := fun _ _ _ hrun =>
  ⟨xorsTheKeystream_of_exec hrun rfl, xorsTheKeystream_of_exec hrun rfl⟩

/-- Settles O54: the engine check is all that TRV.KS checks. -/
theorem ksCopiesTheBuffer : Obligations.KsCopiesTheBuffer := fun rd _ hrun =>
  ⟨fun hinit => endsIn_notInitialized hrun hinit (.trvKs rd) _,
    fun hinit => ⟨_, exec_effect hrun hinit nofun, wroteReg_writeB ..⟩⟩

/-- Settles O55: TRV.ENC leaves the keystream as it is, and the XOR with it a second time gives the operand back. -/
theorem streamCipherRoundTrip : Obligations.StreamCipherRoundTrip := by
  intro rx ry ra s hrun hinit
  refine ⟨fun hwarm hlen => ?warm, fun hcold => ?cold⟩
  case cold =>
    obtain ⟨⟨-, henc, -⟩, -, hdec, -⟩ := streamCommandsXorTheKeystream rx ra s hrun
    exact ⟨henc hinit hcold, hdec hinit hcold⟩
  case warm =>
    refine ⟨_, exec_effect hrun ⟨hinit, hwarm, hlen⟩ nofun, ?_⟩
    generalize ht : ({ commandEffect s (.trvEnc rx ra) with STATUS := 0, INFO := 0 } : State) = t
    have hread : t.readB rx = xorSeq (s.readB ra) s.ks := ht ▸ s.readB_writeB_self rx _
    have hks : t.ks = s.ks := ht ▸ rfl
    have hchecks : commandChecks t (.trvDec ry rx) := by
      refine ⟨ht ▸ hinit, ht ▸ hwarm, ?_⟩
      rw [hread, hks, xorSeq_length, hlen, Nat.min_self]
    refine ⟨hread.trans (xorSeq_comm ..), _, exec_effect (ht ▸ hrun) hchecks nofun, ?_⟩
    calc State.readB { commandEffect t (.trvDec ry rx) with STATUS := 0, INFO := 0 } ry
      _ = xorSeq (t.readB rx) t.ks := t.readB_writeB_self ry _
      _ = xorSeq (xorSeq (s.readB ra) s.ks) s.ks := by rw [hread, hks]
      _ = s.readB ra := xorSeq_cancel hlen

end Sys2Proof.Machine
end

section
/-! PROOFS. HexCodec: hex text that is decoded again, and the expansion of bytes into bits, high bit first, whose chunks are the
bytes (44_hexcodec_host.md R222, R223, R227). -/

namespace Sys2Proof.Machine

/-- Each hex digit that the encoder writes is read back as its value (R221, R224). -/
theorem hexDigit?_hexChar : ∀ n < 16, hexDigit? (hexChar n) = some n := by decide

/-- Reading pairs of hex digits undoes the upper-case encoding (R221, R224). -/
theorem hexPairs?_encodeUpper (bytes : List Byte) : hexPairs? (encodeUpper bytes) = some bytes := by
  induction bytes with
  | nil => rfl
  | cons y bytes ih =>
    have hsplit : encodeUpper (y :: bytes) = hexChar (y.toNat / 16) :: hexChar (y.toNat % 16) :: encodeUpper bytes := rfl
    have hhi := hexDigit?_hexChar (y.toNat / 16) (by omega)
    have hlo := hexDigit?_hexChar (y.toNat % 16) (by omega)
    have hbyte : BitVec.ofNat 8 (16 * (y.toNat / 16) + y.toNat % 16) = y := by
      rw [Nat.div_add_mod, BitVec.ofNat_toNat, BitVec.setWidth_eq]
    simp only [hsplit, hexPairs?, hhi, hlo, ih, hbyte]

/-- Settles O56: the encoded text is hex text, so decoding reads its pairs. -/
theorem hexTextRoundTrip : Obligations.HexTextRoundTrip := fun bytes => by
  rw [hexDecode, hexPairs?_encodeUpper, Option.getD_some]

@[simp] theorem byteBits_length (y : Byte) : (byteBits y).length = 8 := by simp [byteBits]

/-- Element j of a byte's bits is its bit 7 - j (R222). -/
theorem byteBits_getElem? (y : Byte) {j : Nat} (hj : j < 8) : (byteBits y)[j]? = some (y.getLsbD (7 - j)) := by
  simp [byteBits, hj]

/-- The byte of a byte's eight bits is the byte itself (00_scope.md R8). -/
theorem byteMsb_byteBits (y : Byte) : byteMsb (byteBits y) = y := by
  refine BitVec.eq_of_getLsbD_eq fun i hi => ?_
  have hbit : (byteBits y)[7 - i]? = some (y.getLsbD i) := by
    rw [byteBits_getElem? y (by omega), Nat.sub_sub_self (by omega)]
  rw [byteMsb_getLsbD _ (byteBits_length y).le, byteBits_length, hbit]
  simp [hi]

theorem toBitsMsb_cons (y : Byte) (bytes : List Byte) : toBitsMsb (y :: bytes) = byteBits y ++ toBitsMsb bytes := rfl

@[simp] theorem toBitsMsb_length (bytes : List Byte) : (toBitsMsb bytes).length = 8 * bytes.length := by
  induction bytes with
  | nil => rfl
  | cons y bytes ih => simp [toBitsMsb_cons, ih]; omega

/-- Element 8k + j of the expansion is bit 7 - j of byte k (R222). -/
theorem toBitsMsb_getElem? {bytes : List Byte} {k j : Nat} {y : Byte} (hy : bytes[k]? = some y) (hj : j < 8) :
    (toBitsMsb bytes)[8 * k + j]? = some (y.getLsbD (7 - j)) := by
  induction bytes generalizing k with
  | nil => cases hy
  | cons y₀ bytes ih =>
    rw [toBitsMsb_cons]
    cases k with
    | zero =>
      obtain rfl : y₀ = y := Option.some.inj hy
      rw [List.getElem?_append_left (by simp; omega), Nat.mul_zero, Nat.zero_add, byteBits_getElem? _ hj]
    | succ k =>
      rw [List.getElem?_append_right (by simp; omega), ← ih hy, byteBits_length]
      congr 1
      omega

/-- Eight bits at the head are the first chunk, and the rest has the chunks after it (40_bitvector.md R109). -/
theorem chunks_append {g : BitSeq} (hg : g.length = 8) (v : BitSeq) : chunks (g ++ v) = g :: chunks v := by
  have hnum : numChunks (g ++ v) = numChunks v + 1 := by simp only [numChunks, List.length_append, hg]; omega
  have hhead : chunk (g ++ v) 0 = g := by simp [chunk, slice, ← hg]
  have htail (k : Nat) : chunk (g ++ v) (k + 1) = chunk v k := by
    refine List.ext_getElem? fun j => ?_
    rw [chunk_getElem?, chunk_getElem?, List.getElem?_append_right (by omega), hg,
      show 8 * (k + 1) + j - 8 = 8 * k + j by omega]
  simp [chunks, hnum, List.range_succ_eq_map, hhead, htail]

/-- The chunks of the expansion are the bits of the bytes, byte by byte. -/
theorem chunks_toBitsMsb (bytes : List Byte) : chunks (toBitsMsb bytes) = bytes.map byteBits := by
  induction bytes with
  | nil => rfl
  | cons y bytes ih => rw [toBitsMsb_cons, chunks_append (byteBits_length y), ih, List.map_cons]

/-- Packing the expansion of bytes gives the bytes back (R222; 40_bitvector.md R113). -/
theorem pack_toBitsMsb (bytes : List Byte) : pack (toBitsMsb bytes) = bytes := by
  simp [pack, chunks_toBitsMsb, Function.comp_def, byteMsb_byteBits]

/-- Expanding the packing of whole chunks gives the sequence back (R222; 40_bitvector.md R113). -/
theorem toBitsMsb_pack {v : BitSeq} (hwhole : v.length % 8 = 0) : toBitsMsb (pack v) = v := by
  have hlen : (toBitsMsb (pack v)).length = v.length := by simp; omega
  refine List.ext_getElem? fun i => ?_
  by_cases hi : i < v.length
  case pos =>
    obtain ⟨k, j, hj, rfl⟩ : ∃ k j, j < 8 ∧ i = 8 * k + j := ⟨i / 8, i % 8, by omega, by omega⟩
    have hk : k < (pack v).length := by rw [pack_length]; omega
    have hy := List.getElem?_eq_getElem hk
    have hchunk : min 8 (v.length - 8 * k) = 8 := by omega
    obtain ⟨-, hbytes⟩ := isPacking_pack v
    obtain ⟨hbits, -⟩ := hbytes k _ hy
    rw [hchunk] at hbits
    exact (toBitsMsb_getElem? hy hj).trans (hbits j hj).symm
  case neg =>
    rw [List.getElem?_eq_none (by omega), List.getElem?_eq_none (by omega)]

/-- Settles O57: expansion and packing undo each other chunk by chunk. -/
theorem msbExpansionIsUndoneByPacking : Obligations.MsbExpansionIsUndoneByPacking :=
  ⟨fun bytes => ⟨toBitsMsb_length bytes, fun _ _ _ hy hj => toBitsMsb_getElem? hy hj, pack_toBitsMsb bytes⟩,
    fun _ hwhole => toBitsMsb_pack hwhole⟩

/-- The chunk reversal of the expansion is the expansion of the reversed bytes (R223). -/
theorem reverseChunks_toBitsMsb (bytes : List Byte) : reverseChunks (toBitsMsb bytes) = toBitsMsb bytes.reverse := by
  rw [reverseChunks, chunks_toBitsMsb, ← List.map_reverse, ← List.flatMap_def, toBitsMsb]

/-- Settles O58: each chunk of the expansion is one byte, so reversing the chunks reverses the bytes. -/
theorem lsbExpansionIsChunkReversal : Obligations.LsbExpansionIsChunkReversal := fun bytes =>
  ⟨(reverseChunks_toBitsMsb bytes).symm, fun _ _ _ hy hj => toBitsMsb_getElem? hy hj⟩

end Sys2Proof.Machine
end

section
/-! PROOFS. A command word is one step of the block, whatever the host does next, and a halted block ignores it
(60_exceptions.md R245, R256). -/

namespace Sys2Proof.Machine

/-- A halted block ignores a command word without decoding it (R245). -/
theorem State.issue_halted {s : State} (h : s.FAULT ≠ 0) (w : CmdWord) : s.issue w = .next s :=
  State.unlessHalted_halted h _

/-- Every command answers a next state (R240). -/
theorem exec_answers (i : Instr) (s : State) : ∃ t, exec i s = .next t := by
  obtain ⟨t, h, -⟩ := commandsRaiseOnlyWhatTheyMay i s
  exact ⟨t, h⟩

/-- Every command word is answered by a next state: ignored (R245), faulted (R76) or run (R83). -/
theorem State.issue_answers (s : State) (w : CmdWord) : ∃ t, s.issue w = .next t := by
  by_cases hrun : s.FAULT = 0
  case neg => exact ⟨s, State.issue_halted hrun w⟩
  case pos =>
    cases hd : decode w with
    | error _ => exact ⟨_, State.issue_illegal hrun (by simp [hd])⟩
    | ok i =>
      obtain ⟨t, h⟩ := exec_answers i s
      exact ⟨t, (State.issue_decoded hrun hd).trans h⟩

/-- The answer to a command word does not depend on the host's remaining actions (R256). -/
theorem State.issue_withPort {s t : State} {w : CmdWord} (p : List HostAction) (h : s.issue w = .next t) :
    State.issue { s with port := p } w = .next { t with port := p } := by
  by_cases hrun : s.FAULT = 0
  case neg =>
    cases (State.issue_halted hrun w).symm.trans h
    exact State.issue_halted (s := { s with port := p }) hrun w
  case pos =>
    have hrun' : State.FAULT { s with port := p } = 0 := hrun
    cases hd : decode w with
    | error _ =>
      have hillegal : ∀ i, decode w ≠ .ok i := by simp [hd]
      cases (State.issue_illegal hrun hillegal).symm.trans h
      exact State.issue_illegal hrun' hillegal
    | ok i =>
      have hexec : exec i s = .next t := (State.issue_decoded hrun hd).symm.trans h
      exact (State.issue_decoded hrun' hd).trans (exec_withPort p hexec)

/-- A command word takes no further host action from the port: with the port it has, the word has the same answer. -/
theorem State.issue_port {s t : State} {w : CmdWord} (h : s.issue w = .next t) : t.port = s.port := by
  have hsame : s.issue w = .next { t with port := s.port } := State.issue_withPort s.port h
  have ht : t = { t with port := s.port } := Host.Outcome.next.inj (h.symm.trans hsame)
  exact (congrArg State.port ht :)

/-- Settles O59: the step issues the word alone, and the answer to a word is the same for any remaining actions. -/
theorem everyCommandIsASingleStep : Obligations.EveryCommandIsASingleStep := by
  intro s w rest hport
  obtain ⟨t, h⟩ := State.issue_answers { s with port := rest } w
  exact ⟨t, (step_command hport).trans h, State.issue_port h,
    fun rest' => (step_command rfl).trans (State.issue_withPort (s := { s with port := rest }) rest' h)⟩

/-- A halted block takes a command word from the port and nothing else happens (R245). -/
theorem step_command_halted {s : State} (hhalt : s.FAULT ≠ 0) {w : CmdWord} {rest : List HostAction}
    (hport : s.port = .command w :: rest) : step s = .next { s with port := rest } :=
  (step_command hport).trans (State.issue_halted (s := { s with port := rest }) hhalt w)

/-- No step of a halted block but a reset changes the record of the fault (R245, R271). -/
theorem step_halted_keeps_faultRecord {s t : State} (hhalt : s.FAULT ≠ 0) (h : step s = .next t)
    (hreset : ∀ rest, s.port ≠ .reset :: rest) : t.FAULT = s.FAULT ∧ t.FINFO = s.FINFO := by
  match hport : s.port with
  | [] =>
    cases (step_idle hport).symm.trans h
    exact ⟨rfl, rfl⟩
  | .command w :: rest =>
    cases (step_command_halted hhalt hport).symm.trans h
    exact ⟨rfl, rfl⟩
  | .writeBuf a y :: rest =>
    obtain ⟨-, rfl⟩ := State.hostWrite_next.1 ((step_writeBuf hport).symm.trans h)
    exact ⟨rfl, rfl⟩
  | .reset :: rest => exact absurd hport (hreset rest)

/-- Settles O7: commands are ignored, while host writes and resets are served as in any state (O10, O9). -/
theorem haltedBlockIgnoresCommands : Obligations.HaltedBlockIgnoresCommands := by
  intro s hhalt
  obtain ⟨-, hresetStep⟩ := resetClearsEveryPieceOfState
  refine ⟨fun w rest => step_command_halted hhalt, exec_halted hhalt, fun a y rest hport ha => ?write,
    fun t => step_halted_keeps_faultRecord hhalt, hresetStep s⟩
  case write =>
    obtain ⟨hinside, -⟩ := hostWriteChangesOneByte s a y rest hport
    exact hinside ha

end Sys2Proof.Machine
end

section
/-! PROOFS. The valid flags of the engines: a command can set them, and only a reset clears them (10_state.md R24,
70_reset_and_hazards.md R271). -/

namespace Sys2Proof.Machine

/-- Neither valid flag goes from 1 in s to 0 in t. -/
def State.KeepsValidFlags (s t : State) : Prop :=
  (s.desValid = true → t.desValid = true) ∧ (s.trvValid = true → t.trvValid = true)

/-- DES.LOADKEY and TRV.INIT set a valid flag, each its own engine's; no other effect is on one. -/
theorem commandEffect_keepsValidFlags (s : State) (i : Instr) : s.KeepsValidFlags (commandEffect s i) := by
  cases i with
  | desLoadKey _ => exact ⟨fun _ => rfl, id⟩
  | trvInit _ _ => exact ⟨id, fun _ => rfl⟩
  | desSched | desEnc _ | desDec _ => exact ⟨s.ensureSchedule_desValid.trans, s.ensureSchedule_trvValid.trans⟩
  | _ => exact ⟨id, id⟩

/-- A command clears no valid flag, however it ends (60_exceptions.md R240). -/
theorem exec_keepsValidFlags {s t : State} {i : Instr} (h : exec i s = .next t) : s.KeepsValidFlags t := by
  obtain ⟨-, rfl⟩ | ⟨-, ⟨e, info, rfl⟩ | ⟨f, info, rfl⟩ | ⟨-, rfl⟩⟩ := exec_next h
  case inl | inr.inl | inr.inr.inl => exact ⟨id, id⟩
  case inr.inr.inr => exact commandEffect_keepsValidFlags s i

/-- A command word clears no valid flag, decoded or not. -/
theorem State.issue_keepsValidFlags {s t : State} {w : CmdWord} (h : s.issue w = .next t) : s.KeepsValidFlags t := by
  obtain rfl | rfl | ⟨i, hi⟩ := State.issue_next h
  · exact ⟨id, id⟩
  · exact ⟨id, id⟩
  · exact exec_keepsValidFlags hi

/-- No step but a reset clears a valid flag, by the kind of the host's next action. -/
theorem step_keepsValidFlags {s t : State} (h : step s = .next t) (hreset : ∀ rest, s.port ≠ .reset :: rest) :
    s.KeepsValidFlags t := by
  match hport : s.port with
  | [] =>
    cases (step_idle hport).symm.trans h
    exact ⟨id, id⟩
  | .command w :: rest =>
    exact State.issue_keepsValidFlags (s := { s with port := rest }) ((step_command hport).symm.trans h)
  | .writeBuf a y :: rest =>
    obtain ⟨-, rfl⟩ := State.hostWrite_next.1 ((step_writeBuf hport).symm.trans h)
    exact ⟨id, id⟩
  | .reset :: rest => exact absurd hport (hreset rest)

/-- Settles O8: a recorded fault halts the block, which then keeps the record (O7), and the flags are kept in any state. -/
theorem onlyResetClearsFaultAndValidFlags : Obligations.OnlyResetClearsFaultAndValidFlags := fun _ _ h hreset =>
  ⟨fun hhalt => step_halted_keeps_faultRecord hhalt h hreset, step_keepsValidFlags h hreset⟩

end Sys2Proof.Machine
end
